-- ==== Sys2Proof/Word.lean ====
section
/-! DEFINITION. The two bit widths the block handles: bytes (8 bits) and value words (32 bits), spec/00_scope.md rule R9. -/

namespace Sys2Proof

/-- A byte is 8 bits (R9). -/
abbrev Byte := BitVec 8

/-- An Int32 or Float32 value is carried as a 32-bit word (R80, R81). -/
abbrev Word := BitVec 32

end Sys2Proof
end

