-- ==== Sys2Proof/Config.lean ====
section
/-! DEFINITION. What an implementation fixes: the constants of spec/00_scope.md rule R7, the open parameters of
rule R8 and of spec/93_implementation_defined.md U1, and the free values (notes/assumptions/15.md, 18.md, 19.md, 21.md
and 29.md). -/

namespace Sys2Proof

/-- The two readings of "the frame's final boundary" that agree with everything the source says (R125, D7, U1).
The spec's own value is the first. -/
inductive FinalBoundary where
  /-- At most one byte of the input is unread (R125). -/
  | atMostOneUnread
  /-- The next unread byte is absent or is `0x00` (the alternative reading that R125 and R132 name). -/
  | nextAbsentOrZero
  deriving DecidableEq, Repr

/-- The parameters a model takes as arguments (R8, U1). `none` as a capacity means unbounded (D3). -/
structure Params where
  /-- `CAP_BYTES`: the longest byte sequence accepted as operand or result. -/
  capBytes : Option Nat
  /-- `CAP_ITEMS`: the most items or pattern elements accepted. -/
  capItems : Option Nat
  /-- `DEC_FINAL_BOUNDARY` (U1). -/
  boundary : FinalBoundary
  deriving DecidableEq, Repr

namespace Config

/-- `SENTINEL`: the frame terminator (R7). -/
def sentinel : Byte := 0x00

/-- `MAX_CODE`: the run-length byte of a forced boundary (R7). -/
def maxCode : Byte := 0xFF

/-- `MAX_RUN_DATA`: the most data bytes one run carries (R7). -/
def maxRunData : Nat := 254

/-- `DIST_INIT`: the value `e_dist` has at the start of every run (R7). -/
def distInit : Byte := 1

/-- `VALUE_BYTES`: the bytes of an Int32 or a Float32 (R7). -/
def valueBytes : Nat := 4

/-- The byte that stands where a run length will be patched in (R36, D13). -/
def placeholder : Byte := 0x00

/-- The parameters at reset: unbounded buffers (D3) and the spec's own final boundary (R125).
DESIGN CHOICE, notes/assumptions/6.md and 7.md. -/
def defaultParams : Params := ⟨none, none, .atMostOneUnread⟩

/-- FREE VALUE: what a cursor of an operation that has ended holds (U10: any value), a fresh one for each use; no body.
notes/assumptions/21.md. -/
opaque freeIndex : Nat → Nat

/-- FREE VALUE: what an 8-bit working register of an operation that has ended holds (U10), as `freeIndex`.
notes/assumptions/21.md. -/
opaque freeByte : Nat → Byte

/-- FREE VALUE: whether the Transaction Guard's lock is still held after a transaction that ended in an error.
The spec does not say (R188, R199); a fresh one for each use; no body. notes/assumptions/15.md. -/
opaque lockHeldAfterError : Nat → Bool

/-- FREE VALUE: whether a transport call on a closed channel fails (U18: it may fail or succeed); no body.
notes/assumptions/18.md. -/
opaque transportFails : Nat → Bool

/-- FREE VALUE: whether the transport's read timeout expires while a read waits for its frame (R181); no body.
notes/assumptions/19.md. -/
opaque readTimesOut : Nat → Bool

/-- FREE VALUE: the bytes that a read returns when its timeout expires (U20: any value); no body.
notes/assumptions/19.md. -/
opaque timeoutBytes : Nat → List Byte

/-- FREE VALUE: whether a close that has been requested falls at this point of a command in flight (R189: the order is not
given); no body. notes/assumptions/29.md. -/
opaque closeFalls : Nat → Bool

end Config

end Sys2Proof
end

