-- ==== Sys2Proof/Syntax.lean ====
section
/-! DEFINITION. The syntax: operations, tags, items, values, and `Instr` with one constructor for each of the 21
rows of spec/opcode_table.json (spec/30_encoding.md rules R72, R87 to R93, spec/60_exceptions.md rule R211). -/

namespace Sys2Proof

/-- The four operations, selected by `OPSEL` (R88). -/
inductive Op where
  | enc | dec | pack | unpack
  deriving DecidableEq, Repr

/-- A pattern tag of `UNPACK` (R90). -/
inductive Tag where
  | int | float
  deriving DecidableEq, Repr

/-- The values `STATUS` takes; the code 3 is never produced (R32, R211, U2). -/
inductive Status where
  | ok | unsupportedArgumentType | truncatedPayload
  deriving DecidableEq, Repr

/-- An operand item of `PACK`: one of four shapes (R35, R89). -/
inductive Item where
  | int32 (w : Word)
  | float32 (w : Word)
  | rawBytes (s : List Byte)
  | unsupported
  deriving DecidableEq, Repr

/-- A result value of `UNPACK` (R35). -/
inductive Value where
  | int32 (w : Word)
  | float32 (w : Word)
  deriving DecidableEq, Repr

/-- A result value presented as an operand item (R167 packs `VAL[]` again). -/
def Value.toItem : Value → Item
  | .int32 w => .int32 w
  | .float32 w => .float32 w

/-- One constructor per row of spec/opcode_table.json, in the table's order. -/
inductive Instr where
  /-- `ENC`, R100. -/
  | enc
  /-- `DEC`, R120. -/
  | dec
  /-- `PACK`, R140. -/
  | pack
  /-- `UNPACK`, R160. -/
  | unpack
  /-- `CODE.ZERO`: the run-length byte `0x00`, R126. -/
  | codeZero
  /-- `CODE.RUN`: a run-length byte `0x01` to `0xFE`, R124. -/
  | codeRun (n : Byte)
  /-- `CODE.FORCED`: the run-length byte `0xFF`, R127. -/
  | codeForced
  /-- `ITEM.Int32`, R141. -/
  | itemInt32 (w : Word)
  /-- `ITEM.Float32`, R142. -/
  | itemFloat32 (w : Word)
  /-- `ITEM.RawBytes`, R143. -/
  | itemRawBytes (s : List Byte)
  /-- `ITEM.Unsupported`, R144. -/
  | itemUnsupported
  /-- `PAT.Int`, R161. -/
  | patInt
  /-- `PAT.Float`, R162. -/
  | patFloat
  /-- `STATUS.OK`, R211. -/
  | statusOk
  /-- `STATUS.UnsupportedArgumentType`, R211. -/
  | statusUnsupportedArgumentType
  /-- `STATUS.TruncatedPayload`, R211. -/
  | statusTruncatedPayload
  /-- `STATUS.reserved`: the code that is never produced, R211. -/
  | statusReserved
  /-- `ENV.SetMotor`, R193. -/
  | envSetMotor (speed : Word)
  /-- `ENV.RequestEncoder`, R196. -/
  | envRequestEncoder
  /-- `ENV.SetPid`, R197. -/
  | envSetPid (kp ki kd zeroOutput minOutput maxOutput integralRegion integralMax : Word)
  /-- `ENV.SetPosition`, R198. -/
  | envSetPosition (position : Word)
  deriving DecidableEq, Repr

end Sys2Proof
end

