-- ==== Sys2Proof/Machine/Bytes.lean ====
section
/-! DEFINITION. Byte order and the reading of value words: spec/20_memory.md rule R50, spec/00_scope.md rule R9,
spec/30_encoding.md rules R80 and R81. -/

namespace Sys2Proof.Machine

/-- `le32(w)`: the four bytes of a word, least significant first (R50). -/
def le32 (w : Word) : List Byte :=
  [w.extractLsb' 0 8, w.extractLsb' 8 8, w.extractLsb' 16 8, w.extractLsb' 24 8]

/-- `word_le([b0, b1, b2, b3])`: the word of four bytes, least significant first (R50). -/
def wordLe (b0 b1 b2 b3 : Byte) : Word :=
  b3 ++ b2 ++ b1 ++ b0

/-- The words of a byte sequence whose length is a multiple of 4, in order; `none` for any other length. -/
def wordsLe : List Byte → Option (List Word)
  | [] => some []
  | b0 :: b1 :: b2 :: b3 :: rest => (wordsLe rest).map (wordLe b0 b1 b2 b3 :: ·)
  | _ => none

/-- `sint_32(w) = uint(w) - 2^32 * w[31]` (R9). PRESUMED by the spec itself (G2), notes/assumptions/24.md. -/
def sint32 (w : Word) : Int :=
  if w.getLsbD 31 then (w.toNat : Int) - 2 ^ 32 else (w.toNat : Int)

/-- `tc_32(v)`: the word that denotes an integer of the Int32 range; `none` outside it (R9, U13). -/
def tc32 (v : Int) : Option Word :=
  if -2 ^ 31 ≤ v ∧ v ≤ 2 ^ 31 - 1 then some (BitVec.ofInt 32 v) else none

/-- Bit 31 of a Float32 word, its sign (R81). PRESUMED by the spec itself (G1), notes/assumptions/24.md. -/
def floatSign (w : Word) : Bool := w.getLsbD 31

/-- Bits 30:23 of a Float32 word, its biased exponent (R81). -/
def floatExponent (w : Word) : Nat := (w.extractLsb' 23 8).toNat

/-- Bits 22:0 of a Float32 word, its fraction (R81). -/
def floatFraction (w : Word) : Nat := (w.extractLsb' 0 23).toNat

/-- The value a finite Float32 word denotes; `none` for an infinity or a NaN (R81). The block never computes it: it is
the reading of the words that examples write in decimal (G1). -/
def floatValue (w : Word) : Option Rat :=
  let sign : Rat := if floatSign w then -1 else 1
  let fraction : Rat := (floatFraction w : Rat) / 2 ^ 23
  if floatExponent w = 255 then none
  else if floatExponent w = 0 then some (sign * (fraction / 2 ^ 126))
  else some (sign * (1 + fraction) * 2 ^ floatExponent w / 2 ^ 127)

/-- The one-byte-per-value operand check of `SetMotor`: the speed is in [-255, 255] (R194). -/
def motorSpeedOk (w : Word) : Bool :=
  decide (-255 ≤ sint32 w ∧ sint32 w ≤ 255)

/-- A value as its tag reads the word (R161, R162). -/
def valueOf : Tag → Word → Value
  | .int, w => .int32 w
  | .float, w => .float32 w

end Sys2Proof.Machine
end

