-- ==== Sys2Proof/WellFormed.lean ====
section
/-! DEFINITION. Which terms of `Instr` are instructions: the operand restrictions of spec/30_encoding.md rule R72. -/

namespace Sys2Proof

/-- `CODE.RUN` stands for `0x01` to `0xFE` only; the two other run-length bytes have rows of their own (R72). Every other
operand admits every value: any word is an Int32 or a Float32 (R80, R81), any byte sequence is RawBytes (R82), and the
motor-speed domain is a check of the command, not of its encoding (R194). -/
def Instr.wellFormed : Instr → Bool
  | .enc | .dec | .pack | .unpack => true
  | .codeRun n => n != Config.sentinel && n != Config.maxCode
  | .codeZero | .codeForced => true
  | .itemInt32 _ | .itemFloat32 _ | .itemRawBytes _ | .itemUnsupported => true
  | .patInt | .patFloat => true
  | .statusOk | .statusUnsupportedArgumentType | .statusTruncatedPayload | .statusReserved => true
  | .envSetMotor _ | .envRequestEncoder | .envSetPid _ _ _ _ _ _ _ _ | .envSetPosition _ => true

end Sys2Proof
end

