-- ==== Sys2Proof/Decode.lean ====
section
/-! DEFINITION. The decoder and the encoder of the six code spaces of spec/opcode_table.json: spec/30_encoding.md rules
R72, R79, R88, R89, R90, spec/60_exceptions.md rule R211. The spaces share their bit patterns, so a word means something
only in the space it is read in (notes/assumptions/1.md). -/

namespace Sys2Proof

/-- The six code spaces of the opcode table (R93). -/
inductive CodeSpace where
  /-- `OPSEL`, 2 bits (R88). -/
  | opsel
  /-- A run-length byte of a frame, 8 bits (R72). -/
  | code
  /-- An item tag, 2 bits, and the item's content (R89). -/
  | item
  /-- A pattern tag, 1 bit (R90). -/
  | pat
  /-- `STATUS`, 2 bits (R211). -/
  | status
  /-- A decoded command payload: the opcode byte and the packed arguments (R79, R192). -/
  | env
  deriving DecidableEq, Repr

/-- Why bytes are no instruction of a space. -/
inductive DecodeError where
  /-- There is no byte. -/
  | empty
  /-- A bit above the code's width is set. -/
  | highBitsSet
  /-- The content that follows the code has the wrong length. -/
  | badLength
  /-- The command opcode is none of 1 to 4 (R192: no other opcode value is defined). -/
  | unknownOpcode
  deriving DecidableEq, Repr

/-- The operation of an `OPSEL` code (R88). -/
def Op.ofBits (b : BitVec 2) : Op :=
  if b = 0 then .enc else if b = 1 then .dec else if b = 2 then .pack else .unpack

/-- The `OPSEL` code of an operation (R88). -/
def Op.bits : Op → BitVec 2
  | .enc => 0
  | .dec => 1
  | .pack => 2
  | .unpack => 3

/-- The tag code of an item (R89). -/
def Item.tagBits : Item → BitVec 2
  | .int32 _ => 0
  | .float32 _ => 1
  | .rawBytes _ => 2
  | .unsupported => 3

/-- The code of a pattern tag (R90). -/
def Tag.bit : Tag → BitVec 1
  | .int => 0
  | .float => 1

/-- The code of a status (R211). -/
def Status.bits : Status → BitVec 2
  | .ok => 0
  | .unsupportedArgumentType => 1
  | .truncatedPayload => 2

/-- Instructions of the control interface: the code alone. -/
def decodeOpsel : List Byte → Except DecodeError Instr
  | [] => .error .empty
  | [b] =>
    if b = 0 then .ok .enc else if b = 1 then .ok .dec else if b = 2 then .ok .pack
    else if b = 3 then .ok .unpack else .error .highBitsSet
  | _ => .error .badLength

/-- The three classes of the run-length byte (R72). -/
def decodeCode : List Byte → Except DecodeError Instr
  | [] => .error .empty
  | [n] => .ok (if n = Config.sentinel then .codeZero else if n = Config.maxCode then .codeForced else .codeRun n)
  | _ => .error .badLength

/-- An item: its tag, then its content (R89). -/
def decodeItem : List Byte → Except DecodeError Instr
  | [] => .error .empty
  | t :: content =>
    if t = 0 then
      match content with
      | [b0, b1, b2, b3] => .ok (.itemInt32 (Machine.wordLe b0 b1 b2 b3))
      | _ => .error .badLength
    else if t = 1 then
      match content with
      | [b0, b1, b2, b3] => .ok (.itemFloat32 (Machine.wordLe b0 b1 b2 b3))
      | _ => .error .badLength
    else if t = 2 then .ok (.itemRawBytes content)
    else if t = 3 then
      match content with
      | [] => .ok .itemUnsupported
      | _ => .error .badLength
    else .error .highBitsSet

/-- A pattern element: the tag alone (R90). -/
def decodePat : List Byte → Except DecodeError Instr
  | [] => .error .empty
  | [t] => if t = 0 then .ok .patInt else if t = 1 then .ok .patFloat else .error .highBitsSet
  | _ => .error .badLength

/-- A `STATUS` code (R211). -/
def decodeStatus : List Byte → Except DecodeError Instr
  | [] => .error .empty
  | [b] =>
    if b = 0 then .ok .statusOk else if b = 1 then .ok .statusUnsupportedArgumentType
    else if b = 2 then .ok .statusTruncatedPayload else if b = 3 then .ok .statusReserved
    else .error .highBitsSet
  | _ => .error .badLength

/-- A decoded command payload: opcode byte, then packed arguments (R79, R192, R193, R196 to R198). -/
def decodeEnv : List Byte → Except DecodeError Instr
  | [] => .error .empty
  | opcode :: args =>
    if opcode = 1 then
      match Machine.wordsLe args with
      | some [w] => .ok (.envSetMotor w)
      | _ => .error .badLength
    else if opcode = 2 then
      match args with
      | [] => .ok .envRequestEncoder
      | _ => .error .badLength
    else if opcode = 3 then
      match Machine.wordsLe args with
      | some [kp, ki, kd, zo, mino, maxo, ir, im] => .ok (.envSetPid kp ki kd zo mino maxo ir im)
      | _ => .error .badLength
    else if opcode = 4 then
      match Machine.wordsLe args with
      | some [w] => .ok (.envSetPosition w)
      | _ => .error .badLength
    else .error .unknownOpcode

/-- The decoder: total on any bytes of any space, rejecting by name. -/
def decode : CodeSpace → List Byte → Except DecodeError Instr
  | .opsel, bs => decodeOpsel bs
  | .code, bs => decodeCode bs
  | .item, bs => decodeItem bs
  | .pat, bs => decodePat bs
  | .status, bs => decodeStatus bs
  | .env, bs => decodeEnv bs

/-- The encoder: the space of an instruction and its bytes there, written from the same tables. -/
def encode : Instr → CodeSpace × List Byte
  | .enc => (.opsel, [0])
  | .dec => (.opsel, [1])
  | .pack => (.opsel, [2])
  | .unpack => (.opsel, [3])
  | .codeZero => (.code, [0x00])
  | .codeRun n => (.code, [n])
  | .codeForced => (.code, [0xFF])
  | .itemInt32 w => (.item, 0 :: Machine.le32 w)
  | .itemFloat32 w => (.item, 1 :: Machine.le32 w)
  | .itemRawBytes s => (.item, 2 :: s)
  | .itemUnsupported => (.item, [3])
  | .patInt => (.pat, [0])
  | .patFloat => (.pat, [1])
  | .statusOk => (.status, [0])
  | .statusUnsupportedArgumentType => (.status, [1])
  | .statusTruncatedPayload => (.status, [2])
  | .statusReserved => (.status, [3])
  | .envSetMotor w => (.env, 1 :: Machine.le32 w)
  | .envRequestEncoder => (.env, [2])
  | .envSetPid kp ki kd zo mino maxo ir im =>
    (.env, 3 :: [kp, ki, kd, zo, mino, maxo, ir, im].flatMap Machine.le32)
  | .envSetPosition w => (.env, 4 :: Machine.le32 w)

/-- The item of the operand list as the bytes the decoder reads: tag, then content (R89, notes/assumptions/11.md). -/
def Item.bytes (it : Item) : List Byte :=
  it.tagBits.setWidth 8 ::
    match it with
    | .int32 w => Machine.le32 w
    | .float32 w => Machine.le32 w
    | .rawBytes s => s
    | .unsupported => []

/-- The pattern element as the byte the decoder reads (R90). -/
def Tag.bytes (t : Tag) : List Byte := [t.bit.setWidth 8]

/-- The status as the byte the decoder reads (R211). -/
def Status.bytes (st : Status) : List Byte := [st.bits.setWidth 8]

/-- How many bytes an instruction of a space has, told from its first byte. -/
def encodedLength : CodeSpace → Byte → Nat
  | .item, t => if t = 0 ∨ t = 1 then 5 else 1
  | .env, opcode => if opcode = 1 ∨ opcode = 4 then 5 else if opcode = 3 then 33 else 1
  | _, _ => 1

/-- The lowest `k` bytes of a number, the least significant first. -/
def lowBytes : Nat → Nat → List Byte
  | 0, _ => []
  | k + 1, w => BitVec.ofNat 8 w :: lowBytes k (w / 256)

/-- A table word in one space: its bytes up to the instruction's length, the bits above `nbits` zero. -/
def decodeTableWordIn (sp : CodeSpace) (nbits w : Nat) : Option Instr :=
  let w' := w % 2 ^ nbits
  match decode sp (lowBytes (encodedLength sp (BitVec.ofNat 8 w')) w') with
  | .ok i => some i
  | .error _ => none

/-- The instruction of a table word. The table's six spaces share their bit patterns and a word carries no mark of its
space, so the word is read where an idle block meets it: first the control interface, then a command payload, then a
run-length byte (notes/assumptions/1.md). -/
def decodeTableWord (nbits w : Nat) : Option Instr :=
  match decodeTableWordIn .opsel nbits w with
  | some i => some i
  | none =>
    match decodeTableWordIn .env nbits w with
    | some i => some i
    | none => decodeTableWordIn .code nbits w

end Sys2Proof
end

