-- ==== Sys2Proof/Machine/State.lean ====
section
/-! DEFINITION. The state of the machine as plain data, its reset, and why a step can stop: spec/10_state.md rules R20
to R41, spec/20_memory.md rule R55, spec/44_environment_protocol.md rules R181, R186, spec/60_exceptions.md rule R219. -/

namespace Sys2Proof.Machine

/-- A byte space: a 0-indexed byte sequence whose length is part of its value (R38, R55; notes/assumptions/8.md). -/
abbrev ByteSpace := List Byte

/-- `PHASE` (R34). -/
inductive Phase where
  | idle | busy
  deriving DecidableEq, Repr

/-- What the environment does with the block and its transport, other than issuing an instruction (R31, R92, R181, R243). -/
inductive EnvOp where
  /-- Wait until the block is idle (R243, points 1 and 4). -/
  | await
  /-- Write `IN` (R243, point 2). -/
  | writeIn (bs : List Byte)
  /-- Write `ITEM[]` (R243, point 2). -/
  | writeItems (items : List Item)
  /-- Write `PAT[]` (R243, point 2). -/
  | writePat (tags : List Tag)
  /-- Write `OPSEL` and start, with the operation run one element at a time (R135, D1; notes/assumptions/2.md). -/
  | beginOp (opsel : BitVec 2)
  /-- Read `OPSEL` (R21, U9). -/
  | readOpsel
  /-- Read `PHASE` (R34). -/
  | readPhase
  /-- Read `RESULT_VALID` (R34). -/
  | readResultValid
  /-- Read `STATUS` (R243, point 5). -/
  | readStatus
  /-- Read `OUT` (R243, point 6). -/
  | readOut
  /-- Read `VAL[]` (R243, point 6). -/
  | readVal
  /-- Copy `OUT` into `IN` behind the given bytes: the environment moves a result into the next operand (R31, R183). -/
  | outToIn (front : List Byte)
  /-- `transport.write_bytes` of any data (R181). -/
  | writeBytes (bs : List Byte)
  /-- `transport.read_bytes`, the bytes to the environment (R181). -/
  | readBytes
  /-- `transport.write_bytes` of `OUT` (R92, R181). -/
  | transmit
  /-- `transport.read_bytes` into `IN` (R75, R92, R181). -/
  | receive
  /-- The macro `SENDFRAME` alone, outside a command: no lock is taken and the Open mark is not tested, as R92 writes it.
  DESIGN CHOICE, notes/assumptions/28.md. -/
  | sendFrame (opcode : Byte) (items : List Item)
  /-- The macro `RECVVALS` alone, outside a command: the lock is left as it is, as R92 writes it.
  DESIGN CHOICE, notes/assumptions/28.md. -/
  | recvVals (pattern : List Tag)
  /-- The second half of a command with a reply: the read and parse of its body, and the release (R183, R188). A command puts it
  before the pending actions. -/
  | reply (pattern : List Tag)
  /-- `is_open()` (R181). -/
  | isOpen
  /-- `close()`: the channel becomes `Closed` (R181, R189). While a command is in flight a close that is the next pending action
  may fall inside it. -/
  | close
  /-- The environment's start-up: the channel is constructed, `Open` and `Unlocked` (R244). DESIGN CHOICE,
  notes/assumptions/12.md. -/
  | openChannel
  /-- Reset of the block (R240). -/
  | reset
  deriving DecidableEq, Repr

/-- The environment's next action: an instruction given by its bits, or an action of its own. -/
inductive EnvAction where
  /-- Write `OPSEL` and start: the whole operation, start to completion (R2, R243 point 3). -/
  | start (opsel : BitVec 2)
  /-- Issue a command, given as its decoded payload: opcode byte and packed arguments (R79, R191). -/
  | command (payload : List Byte)
  /-- An action that is no instruction. -/
  | act (a : EnvOp)
  deriving DecidableEq, Repr

/-- One thing the environment has read, from the block (R34, R243) or of the transport (R181). -/
inductive Reading where
  | opsel (op : Op)
  | phase (p : Phase)
  | resultValid (b : Bool)
  | status (st : Status)
  | out (bs : List Byte)
  | vals (vs : List Value)
  | isOpen (b : Bool)
  | received (bs : List Byte)
  deriving DecidableEq, Repr

/-- What a command or macro gave back to its caller (R182, R195, R199). -/
inductive CallResult where
  /-- A command without reply was sent. -/
  | done
  /-- A reply was read: its values, and the bytes left over (R163, R185). -/
  | values (vs : List Value) (rest : List Byte)
  /-- `BadCommand`, with the offending argument list (R195). -/
  | badCommand (args : List Item)
  /-- `TruncatedPayload` (R199). -/
  | truncatedPayload
  /-- The channel-closed no-op (R188, R199). -/
  | closedNoOp
  /-- A transport call failed on a closed channel (R189, U18). notes/assumptions/18.md. -/
  | transportFailed
  deriving DecidableEq, Repr

/-- What a transport read comes to (R181, U18, U20). -/
inductive Received where
  /-- It returns these bytes. -/
  | bytes (bs : List Byte)
  /-- It fails; only on a closed channel. -/
  | failed
  /-- It blocks. -/
  | waits
  deriving DecidableEq, Repr

/-- Why the machine stops with a fault. -/
inductive Fault where
  /-- A `MemWrite` at an index that `OUT` does not have. Raised by the steps of `ENC` and by its completion, only in a state
  where `e_patch` is not below `len(OUT)`, which no run reaches (R24, R57). Safe. notes/assumptions/23.md. -/
  | spaceIndex
  deriving DecidableEq, Repr

/-- Why the machine has no step. -/
inductive Refusal where
  /-- No meaning yet, by mnemonic. Raised by a refused arm of `exec` only. Safe. -/
  | notModelled (mnemonic : String)
  /-- Bytes that are no instruction of their space. Raised by `step`. Safe. -/
  | undecodable (e : DecodeError)
  /-- A start while `PHASE = BUSY` (R40, R219, U6). Raised by every start and command. Safe. -/
  | startWhileBusy
  /-- An operand write while `PHASE = BUSY` (R40, R219, U6). Raised by the operand writes. Safe. -/
  | writeWhileBusy
  /-- An operation reads an operand not written since reset: "a model must treat a read of them before they are written as a read
  of no value: refuse" (R37), "the read itself: `refuse`" (U9). Raised by every start. Safe. -/
  | operandUnwritten
  /-- A read of `OPSEL` before any start since reset has written it: `OPSEL` is "unspecified; written at every start" (R37), "the read
  itself: `refuse`" (U9, which names `OPSEL`), "Reading an unspecified element is refused" (D14). Raised by the read. Safe. -/
  | opselUnwritten
  /-- An operand or a result longer than a capacity (R8, R58, R219, U5). Raised by every start. Safe. -/
  | capacityExceeded
  /-- A read of `STATUS`, `OUT` or `VAL[]` while `RESULT_VALID = 0` (R219, R247, U7). Raised by the reads. Safe. -/
  | resultNotValid
  /-- A read of `OUT` or `VAL[]` that holds no value: after an error outcome, or unused by the operation (R56, R214, R219,
  U8). Raised by the reads. Safe. -/
  | noValueHeld
  /-- A run-length byte, item, pattern element or completion with no operation running that has it. Raised by the rows
  `CODE`, `ITEM`, `PAT` and `STATUS`. Safe. notes/assumptions/10.md. -/
  | noOperationRunning
  /-- A run-length byte, item or pattern element that is not the one at the cursor. Raised by the rows `CODE`, `ITEM` and
  `PAT`. Safe. notes/assumptions/10.md. -/
  | notAtCursor
  /-- A completion with `OK` before the operation's loop is at its end. Raised by `STATUS.OK`. Safe. notes/assumptions/9.md. -/
  | operationUnfinished
  /-- A completion with an error whose cause is absent. Raised by the two error rows of `STATUS`. Safe.
  notes/assumptions/9.md. -/
  | causeAbsent
  /-- The status code that is never produced (R211, U2). Raised by `STATUS.reserved`. Safe. -/
  | statusReserved
  deriving DecidableEq, Repr

/-- The outcome of a step of this machine. -/
abbrev Outcome := Host.Outcome

/-- The machine's state. The block is everything down to `uBpos` (R21); `params` never changes (R8, R39); the rest is the
environment (R39, R41, R186). -/
structure State where
  /-- The open parameters (R8, U1). -/
  params : Params
  /-- `PHASE` (R34). -/
  phase : Phase
  /-- `OPSEL` (R34, R88). -/
  opsel : Op
  /-- `OPSEL` has been written since reset (R37, U9). -/
  opselHeld : Bool
  /-- `STATUS` (R32, R34). -/
  status : Status
  /-- `RESULT_VALID` (R34). -/
  resultValid : Bool
  /-- `IN` (R55). -/
  inp : ByteSpace
  /-- `IN` has been written since reset (R37, U9). -/
  inpHeld : Bool
  /-- `ITEM[]` (R35). -/
  items : List Item
  /-- `ITEM[]` has been written since reset (R37, U9). -/
  itemsHeld : Bool
  /-- `PAT[]` (R35). -/
  pat : List Tag
  /-- `PAT[]` has been written since reset (R37, U9). -/
  patHeld : Bool
  /-- `OUT` (R55). -/
  out : ByteSpace
  /-- `OUT` holds a value for the environment to read (R56, R212, R214). -/
  outHeld : Bool
  /-- `VAL[]` (R35). -/
  vals : List Value
  /-- `VAL[]` holds a value for the environment to read (R56, R212, R214). -/
  valsHeld : Bool
  /-- `e_ipos` (R25). -/
  eIpos : Nat
  /-- `e_dist` (R23). -/
  eDist : Byte
  /-- `e_patch` (R24). -/
  ePatch : Nat
  /-- `d_ipos` (R26). -/
  dIpos : Nat
  /-- `d_n` (R26). -/
  dN : Byte
  /-- `d_left` (R26). -/
  dLeft : Nat
  /-- `p_idx` (R27). -/
  pIdx : Nat
  /-- `u_idx` (R28). -/
  uIdx : Nat
  /-- `u_bpos` (R28). -/
  uBpos : Nat
  /-- How many free values have been used: the model's own field, no element of the block. notes/assumptions/21.md. -/
  fresh : Nat
  /-- The environment's pending actions, the next one first (R91, R243). -/
  cmds : List EnvAction
  /-- What the environment has read, the latest last. -/
  readings : List Reading
  /-- What the commands and macros gave back, the latest last (R182, R199). -/
  calls : List CallResult
  /-- The channel is `Open` (R186). -/
  chanOpen : Bool
  /-- The channel is `Locked` (R186, R187). -/
  chanLocked : Bool
  /-- The bytes written to the transport, the latest last (R181). -/
  tx : List Byte
  /-- The bytes that have arrived from the transport and are unread, the next one first (R181). -/
  rx : List Byte
  deriving DecidableEq, Repr

/-- Right after reset: `PHASE = IDLE`, `RESULT_VALID = 0` (R37, R240). Every other element is unspecified there; the values
here are notes/assumptions/4.md (block) and 12.md (environment: the channel starts `Open` and `Unlocked`, R244), and the marks refuse a
read of them (5.md). -/
def State.reset : State where
  params := Config.defaultParams
  phase := .idle
  opsel := .enc
  opselHeld := false
  status := .ok
  resultValid := false
  inp := []
  inpHeld := false
  items := []
  itemsHeld := false
  pat := []
  patHeld := false
  out := []
  outHeld := false
  vals := []
  valsHeld := false
  eIpos := 0
  eDist := 0
  ePatch := 0
  dIpos := 0
  dN := 0
  dLeft := 0
  pIdx := 0
  uIdx := 0
  uBpos := 0
  fresh := 0
  cmds := []
  readings := []
  calls := []
  chanOpen := true
  chanLocked := false
  tx := []
  rx := []

end Sys2Proof.Machine
end

