-- ==== Sys2Proof/Machine/Flags.lean ====
section
/-! DEFINITION. The block's only flags: `STATUS` and `RESULT_VALID` (spec/10_state.md rules R32, R34,
spec/60_exceptions.md rule R211), and the conditions on which they depend. -/

namespace Sys2Proof.Machine

/-- An operation is running and it is this one. -/
def State.running (s : State) (op : Op) : Bool :=
  s.phase == .busy && s.opsel == op

/-- Fewer than 4 bytes are unconsumed: the cause of `TruncatedPayload` (line U3, R164). -/
def State.short (s : State) : Bool :=
  decide (s.inp.length - s.uBpos < Config.valueBytes)

/-- The loop of the selected operation is at its end (lines E3, D2, P2, U2). -/
def State.loopDone (s : State) : Bool :=
  match s.opsel with
  | .enc => decide (s.inp.length ≤ s.eIpos)
  | .dec => decide (s.inp.length ≤ s.dIpos)
  | .pack => decide (s.items.length ≤ s.pIdx)
  | .unpack => decide (s.pat.length ≤ s.uIdx)

/-- `DEC` is at the final boundary (R125), in the reading the parameter names (U1). -/
def State.atFinalBoundary (s : State) : Bool :=
  match s.params.boundary with
  | .atMostOneUnread => decide (s.inp.length - s.dIpos ≤ 1)
  | .nextAbsentOrZero =>
    match s.inp[s.dIpos]? with
    | none => true
    | some b => b == 0

/-- The cause of an error outcome is there: `PACK` is at an `Unsupported` item, `UNPACK` at an element with fewer than 4 bytes
left; `OK` is no error (R211). -/
def State.errorCause (s : State) : Status → Bool
  | .ok => false
  | .unsupportedArgumentType => s.running .pack && s.items[s.pIdx]? == some .unsupported
  | .truncatedPayload => s.running .unpack && decide (s.uIdx < s.pat.length) && s.short

/-- The working registers of the operation that ends hold any value from then on (U10): fresh free values, `d_left` within its range
(R26). The other operations' registers are as they were. notes/assumptions/21.md. -/
def State.forget (s : State) : State :=
  { s with
    fresh := s.fresh + 3
    eIpos := if s.opsel = .enc then Config.freeIndex s.fresh else s.eIpos
    eDist := if s.opsel = .enc then Config.freeByte (s.fresh + 1) else s.eDist
    ePatch := if s.opsel = .enc then Config.freeIndex (s.fresh + 2) else s.ePatch
    dIpos := if s.opsel = .dec then Config.freeIndex s.fresh else s.dIpos
    dN := if s.opsel = .dec then Config.freeByte (s.fresh + 1) else s.dN
    dLeft := if s.opsel = .dec then Config.freeIndex (s.fresh + 2) % (Config.maxRunData + 1) else s.dLeft
    pIdx := if s.opsel = .pack then Config.freeIndex s.fresh else s.pIdx
    uIdx := if s.opsel = .unpack then Config.freeIndex s.fresh else s.uIdx
    uBpos := if s.opsel = .unpack then Config.freeIndex (s.fresh + 1) else s.uBpos }

/-- Completion with `OK`: the result is there for the environment to read (R32, R34). `VAL[]` holds a value after `UNPACK` only
(R56). -/
def State.complete (s : State) : State :=
  { s.forget with
    status := .ok
    resultValid := true
    phase := .idle
    outHeld := true
    valsHeld := s.opsel == .unpack }

end Sys2Proof.Machine
end

