-- ==== Sys2Proof/Machine/Operands.lean ====
section
/-! DEFINITION. What an operation needs of its operands: which it uses (spec/20_memory.md rule R56), that they have been
written (spec/10_state.md rule R37), and that they and the result fit the capacities (R8, R58). -/

namespace Sys2Proof.Machine

/-- Split a payload at its zero bytes into zero-free segments (R107); a payload with `z` zeros has `z + 1` of them. -/
def zeroFreeSegments : List Byte → List (List Byte)
  | [] => [[]]
  | b :: rest =>
    match zeroFreeSegments rest with
    | [] => [[b]]
    | seg :: segs => if b = 0 then [] :: seg :: segs else (b :: seg) :: segs

/-- The length law of `ENC`: `len(P) + 2 + Σ (s_k div 254)` (R107). -/
def encLength (p : List Byte) : Nat :=
  p.length + 2 + ((zeroFreeSegments p).map fun seg => seg.length / Config.maxRunData).sum

/-- The serialisation of one item, `none` for `Unsupported` (R80 to R82, R141 to R144). -/
def Item.serialise : Item → Option (List Byte)
  | .int32 w => some (le32 w)
  | .float32 w => some (le32 w)
  | .rawBytes s => some s
  | .unsupported => none

/-- The payload length of a successful `PACK` (R146); `none` when an item is `Unsupported`. -/
def packLength : List Item → Option Nat
  | [] => some 0
  | it :: rest =>
    match Item.serialise it, packLength rest with
    | some bs, some n => some (bs.length + n)
    | _, _ => none

/-- A length is within a capacity (R8); `none` is unbounded (D3). -/
def within (cap : Option Nat) (n : Nat) : Bool :=
  match cap with
  | none => true
  | some c => decide (n ≤ c)

/-- An item's bytes are within `CAP_BYTES` (R8, R58). -/
def Item.fits (cap : Option Nat) : Item → Bool
  | .rawBytes s => within cap s.length
  | _ => true

/-- The operands an operation uses have been written since reset (R37, R56, U9). -/
def State.operandsHeld (s : State) : Op → Bool
  | .enc => s.inpHeld
  | .dec => s.inpHeld
  | .pack => s.itemsHeld
  | .unpack => s.inpHeld && s.patHeld

/-- The operands an operation uses, and its result, are within the capacities (R8, R58, U5). The result of `DEC` is shorter
than its operand (R133) and the remainder of `UNPACK` is no longer than its payload, so they need no check of their own; a
`PACK` that fails has no result (notes/assumptions/22.md). -/
def State.capacityOk (s : State) : Op → Bool
  | .enc => within s.params.capBytes s.inp.length && within s.params.capBytes (encLength s.inp)
  | .dec => within s.params.capBytes s.inp.length
  | .pack =>
    within s.params.capItems s.items.length && s.items.all (Item.fits s.params.capBytes) &&
      match packLength s.items with
      | some n => within s.params.capBytes n
      | none => true
  | .unpack => within s.params.capBytes s.inp.length && within s.params.capItems s.pat.length

end Sys2Proof.Machine
end

