-- ==== Sys2Proof/Machine/Ops.lean ====
section
/-! DEFINITION. The named operations over the byte spaces, the lists and the registers, the start of an operation, its
completion, and taking an error outcome (spec/20_memory.md rules R55 and R66, spec/60_exceptions.md rule R212). -/

namespace Sys2Proof.Machine

/-- Continue with the next state; stop as the first part stops. -/
def andThen (o : Outcome State Fault Refusal) (f : State → Outcome State Fault Refusal) :
    Outcome State Fault Refusal :=
  match o with
  | .next s => f s
  | .fault r => .fault r
  | .refused r => .refused r

/-- The cells of a byte space, index and byte (R55). -/
def ByteSpace.cells (m : ByteSpace) : List Host.Cell :=
  m.zipIdx.map fun c => (c.2, c.1)

/-- A list of cells is in canonical form: its addresses are `n, n + 1, …` without a hole (R59). -/
def cellsDense : Nat → List Host.Cell → Bool
  | _, [] => true
  | n, (a, _) :: rest => a == n && cellsDense (n + 1) rest

/-- A byte space's cells are strictly rising from 0 without a hole (R59). Every list of bytes is: there is one form per
contents (notes/assumptions/8.md). -/
def Memory.wf (m : ByteSpace) : Bool :=
  cellsDense 0 (ByteSpace.cells m)

/-- `MemWrite(OUT:len(OUT), len(bs), bs)`: append (R11, R66). -/
def State.append (s : State) (bs : List Byte) : State :=
  { s with out := s.out ++ bs }

/-- `MemWrite(OUT:e_patch, 1, e_dist)`: patch the run length in (lines B1, E10). -/
def State.patch (s : State) : State :=
  { s with out := s.out.set s.ePatch s.eDist }

/-- `raise <Error>`: the one way an error outcome is taken. `STATUS` gets the code, `OUT` and `VAL[]` hold no value,
`RESULT_VALID` is 1, `PHASE` is `IDLE`; the operands are unchanged and control goes nowhere (R212, R214, R217). The working registers
hold any value from then on (U10). -/
def State.raise (s : State) (e : Status) : State :=
  { s.forget with
    status := e
    out := []
    outHeld := false
    vals := []
    valsHeld := false
    resultValid := true
    phase := .idle }

/-- What every start does: `PHASE` is `BUSY`, `OPSEL` is written, the last result is gone (R34). -/
def State.selected (s : State) (op : Op) : State :=
  { s with
    phase := .busy
    opsel := op
    opselHeld := true
    resultValid := false
    out := []
    outHeld := false
    vals := []
    valsHeld := false }

/-- The start of an operation, with its working state initialised (lines E1 E2, D1, P1, U1). -/
def State.started (s : State) : Op → State
  | .enc =>
    { s.selected .enc with out := [Config.placeholder], ePatch := 0, eDist := Config.distInit, eIpos := 0 }
  | .dec => { s.selected .dec with dIpos := 0 }
  | .pack => { s.selected .pack with pIdx := 0 }
  | .unpack => { s.selected .unpack with uIdx := 0, uBpos := 0 }

/-- Start an operation, or refuse (R40, R58; the refusals of R219). An operand that nothing has written since reset is refused because
R37 says so of an operand: "a model must treat a read of them before they are written as a read of no value: refuse". -/
def State.startOp (s : State) (op : Op) : Outcome State Fault Refusal :=
  if s.phase = .busy then .refused .startWhileBusy
  else if s.operandsHeld op = false then .refused .operandUnwritten
  else if s.capacityOk op = false then .refused .capacityExceeded
  else .next (s.started op)

/-- The lines after the loop, then completion with `OK` (E10 to E12, D9, P9, U9 U10). -/
def State.finish (s : State) : State :=
  match s.opsel with
  | .enc => (s.patch.append [Config.sentinel]).complete
  | .dec => s.complete
  | .pack => s.complete
  | .unpack => { s with out := s.inp.drop s.uBpos }.complete

/-- Reset of the block (R240): a running operation is abandoned; `PHASE` is `IDLE`, `RESULT_VALID` is 0, and every other
element of the block has the value `State.reset` gives it (notes/assumptions/26.md). The counter of free values goes on, so that no
free value used before a reset is used again after it (R6, R37, R240: any value each time). -/
def State.resetBlock (s : State) : State :=
  { State.reset with
    params := s.params
    fresh := s.fresh
    cmds := s.cmds
    readings := s.readings
    calls := s.calls
    chanOpen := s.chanOpen
    chanLocked := s.chanLocked
    tx := s.tx
    rx := s.rx }

/-- Put an environment action before the pending ones. -/
def State.push (s : State) (a : EnvAction) : State :=
  { s with cmds := a :: s.cmds }

/-- The environment gets a result back. -/
def State.deliver (s : State) (r : CallResult) : State :=
  { s with calls := s.calls ++ [r] }

/-- The environment has read something. -/
def State.record (s : State) (r : Reading) : State :=
  { s with readings := s.readings ++ [r] }

/-- The environment writes `IN`, not while `BUSY` (R40, R243). -/
def State.writeIn (s : State) (bs : List Byte) : Outcome State Fault Refusal :=
  if s.phase = .busy then .refused .writeWhileBusy
  else .next { s with inp := bs, inpHeld := true }

/-- The environment writes `ITEM[]`, not while `BUSY` (R40, R243). -/
def State.writeItems (s : State) (items : List Item) : Outcome State Fault Refusal :=
  if s.phase = .busy then .refused .writeWhileBusy
  else .next { s with items := items, itemsHeld := true }

/-- The environment writes `PAT[]`, not while `BUSY` (R40, R243). -/
def State.writePat (s : State) (tags : List Tag) : Outcome State Fault Refusal :=
  if s.phase = .busy then .refused .writeWhileBusy
  else .next { s with pat := tags, patHeld := true }

/-- The environment reads `OPSEL`, once a start has written it (R21). Before that the read is refused because U9, which names `OPSEL`, says
"the read itself: `refuse`" (R37, D14). -/
def State.readOpsel (s : State) : Except Refusal Op :=
  if s.opselHeld = false then .error .opselUnwritten else .ok s.opsel

/-- The environment reads `STATUS`, only while `RESULT_VALID = 1` (R247, U7). -/
def State.readStatus (s : State) : Except Refusal Status :=
  if s.resultValid = false then .error .resultNotValid else .ok s.status

/-- The environment reads `OUT`, only while `RESULT_VALID = 1` and it holds a value (R214, R247, U7, U8). -/
def State.readOut (s : State) : Except Refusal (List Byte) :=
  if s.resultValid = false then .error .resultNotValid
  else if s.outHeld = false then .error .noValueHeld
  else .ok s.out

/-- The environment reads `VAL[]`, only while `RESULT_VALID = 1` and it holds a value (R56, R214, R247, U7, U8). -/
def State.readVal (s : State) : Except Refusal (List Value) :=
  if s.resultValid = false then .error .resultNotValid
  else if s.valsHeld = false then .error .noValueHeld
  else .ok s.vals

/-- The environment copies `OUT` into `IN` behind the given bytes (R31, R183). -/
def State.outToIn (s : State) (front : List Byte) : Outcome State Fault Refusal :=
  match s.readOut with
  | .error r => .refused r
  | .ok bs => s.writeIn (front ++ bs)

/-- `transport.write_bytes(bs)`: did it succeed, and the state after it (R181). On a closed channel it may fail or succeed (U18), and
how much of the data a call that fails has written is open too: free values, notes/assumptions/18.md. -/
def State.writeBytes (s : State) (bs : List Byte) : Bool × State :=
  if s.chanOpen = true then (true, { s with tx := s.tx ++ bs })
  else if Config.transportFails s.fresh = true then
    (false, { s with fresh := s.fresh + 1, tx := s.tx ++ bs.take (Config.freeIndex s.fresh) })
  else (true, { s with fresh := s.fresh + 1, tx := s.tx ++ bs })

/-- `transport.write_bytes` of data that is there, then go on as the call ended; a call that fails is reported to the caller
(R181, U18). -/
def State.sendBytes (bs : List Byte) (sent failed : State → State) (s : State) : State :=
  match s.writeBytes bs with
  | (true, s1) => sent s1
  | (false, s1) => failed (s1.deliver .transportFailed)

/-- `transport.write_bytes(OUT)` (R92, R181). -/
def State.transmit (sent failed : State → State) (s : State) : Outcome State Fault Refusal :=
  match s.readOut with
  | .error r => .refused r
  | .ok bs => .next (s.sendBytes bs sent failed)

end Sys2Proof.Machine
end

