-- ==== Sys2Proof/Machine/Codec.lean ====
section
/-! DEFINITION. The Frame Codec: `ENC` (spec/40_cobs_encode.md), `DEC` (spec/41_cobs_decode.md) and the three classes of
the run-length byte (spec/30_encoding.md rule R72) as `DEC` meets them. -/

namespace Sys2Proof.Machine

/-- `boundary()`: patch the finished run's length, append the next run's placeholder, restart the distance (lines B1 to B4). -/
def boundary (s : State) : State :=
  { s.patch.append [Config.placeholder] with ePatch := s.out.length, eDist := Config.distInit }

/-- One payload byte of `ENC` (lines E4 to E9, R103, R104). -/
def encByte (s : State) (b : Byte) : State :=
  let s := { s with eIpos := s.eIpos + 1 }
  if b = Config.sentinel then boundary s
  else
    let s := { s.append [b] with eDist := s.eDist + 1 }
    if s.eDist = Config.maxCode then boundary s else s

/-- The loop of `ENC` over the payload bytes (line E3). -/
def encScan (bs : List Byte) (s : State) : State :=
  bs.foldl encByte s

/-- `ENC`: the whole operation (R100). -/
def execEnc (s : State) : Outcome State Fault Refusal :=
  andThen (s.startOp .enc) fun s1 => .next (encScan s1.inp s1).finish

/-- One payload byte as a step of its own; a placeholder outside `OUT` is a fault (R57). -/
def encStep (b : Byte) (s : State) : Outcome State Fault Refusal :=
  if s.ePatch < s.out.length then .next (encByte s b) else .fault .spaceIndex

/-- Copy data bytes of a run (lines D5, D6). -/
def copyRun : Nat → State → State
  | 0, s => s
  | k + 1, s =>
    match s.inp[s.dIpos]? with
    | some b => copyRun k { s.append [b] with dIpos := s.dIpos + 1, dLeft := s.dLeft - 1 }
    | none => s

/-- Read the run-length byte `n` at the cursor: how many of its `n - 1` data bytes there are to copy (lines D3, D4; R122, R123). -/
def openRun (n : Byte) (s : State) : State :=
  { s with
    dN := n
    dIpos := s.dIpos + 1
    dLeft := min (n.toNat - 1) (s.inp.length - (s.dIpos + 1)) }

/-- The implied zero (lines D7, D8; R124). -/
def impliedZero (s : State) : State :=
  if s.dN < Config.maxCode ∧ s.atFinalBoundary = false then s.append [Config.sentinel] else s

/-- One iteration of the outer loop of `DEC` on the run-length byte `n` (lines D3 to D8, R135). -/
def decRun (n : Byte) (s : State) : State :=
  let s := openRun n s
  impliedZero (copyRun s.dLeft s)

/-- The outer loop of `DEC` (line D2), with as many iterations at hand as there are bytes: each consumes at least one (R33). -/
def decScan : Nat → State → State
  | 0, s => s
  | k + 1, s =>
    match s.inp[s.dIpos]? with
    | some n => decScan k (decRun n s)
    | none => s

/-- `DEC`: the whole operation (R120). -/
def execDec (s : State) : Outcome State Fault Refusal :=
  andThen (s.startOp .dec) fun s1 => .next (decScan s1.inp.length s1).finish

/-- A run-length byte as a step of its own: the one at the cursor of a running `DEC` (R135). -/
def runAtCursor (n : Byte) (s : State) : Outcome State Fault Refusal :=
  if s.running .dec = false then .refused .noOperationRunning
  else if s.inp[s.dIpos]? = some n then .next (decRun n s)
  else .refused .notAtCursor

/-- `CODE.ZERO` (R126). -/
def execCodeZero (s : State) : Outcome State Fault Refusal :=
  runAtCursor Config.sentinel s

/-- `CODE.RUN n` (R123, R124). -/
def execCodeRun (n : Byte) (s : State) : Outcome State Fault Refusal :=
  runAtCursor n s

/-- `CODE.FORCED` (R127). -/
def execCodeForced (s : State) : Outcome State Fault Refusal :=
  runAtCursor Config.maxCode s

end Sys2Proof.Machine
end

