-- ==== Sys2Proof/Machine/Completion.lean ====
section
/-! DEFINITION. The `STATUS` rows: completing the running operation with that outcome (spec/60_exceptions.md rules R211,
R212; notes/assumptions/9.md). -/

namespace Sys2Proof.Machine

/-- `STATUS.OK`: the running operation, its loop at the end, completes with its result (lines E10 to E12, D9, P9, U9 U10; R211).
A placeholder outside `OUT` is a fault (R57). -/
def execStatusOk (s : State) : Outcome State Fault Refusal :=
  if s.phase = .idle then .refused .noOperationRunning
  else if s.loopDone = false then .refused .operationUnfinished
  else if s.opsel = .enc ∧ s.out.length ≤ s.ePatch then .fault .spaceIndex
  else .next s.finish

/-- The running operation ends with an error outcome whose cause is there (R211, R212). -/
def raiseStep (e : Status) (s : State) : Outcome State Fault Refusal :=
  if s.phase = .idle then .refused .noOperationRunning
  else if s.errorCause e = false then .refused .causeAbsent
  else .next (s.raise e)

/-- `STATUS.UnsupportedArgumentType`: `PACK` met an `Unsupported` item (R144, R211). -/
def execStatusUnsupportedArgumentType (s : State) : Outcome State Fault Refusal :=
  raiseStep .unsupportedArgumentType s

/-- `STATUS.TruncatedPayload`: `UNPACK` found fewer than 4 bytes for an element (R164, R211). -/
def execStatusTruncatedPayload (s : State) : Outcome State Fault Refusal :=
  raiseStep .truncatedPayload s

/-- `STATUS.reserved`: the code 3 is never produced; there is no step for it (R211, R85, U2). -/
def execStatusReserved (_ : State) : Outcome State Fault Refusal :=
  .refused .statusReserved

end Sys2Proof.Machine
end

