-- ==== Sys2Proof/Machine/Packer.lean ====
section
/-! DEFINITION. The Value Packer: `PACK` (spec/42_pack.md), `UNPACK` (spec/43_unpack.md), and their items and pattern
elements. -/

namespace Sys2Proof.Machine

/-- One item of `PACK` (lines P3 to P8, R141 to R144). -/
def packItem (it : Item) (s : State) : State :=
  match it with
  | .int32 w => { s.append (le32 w) with pIdx := s.pIdx + 1 }
  | .float32 w => { s.append (le32 w) with pIdx := s.pIdx + 1 }
  | .rawBytes bs => { s.append bs with pIdx := s.pIdx + 1 }
  | .unsupported => s.raise .unsupportedArgumentType

/-- The loop of `PACK` over the items (line P2); the first `Unsupported` item ends it (R144). -/
def packScan : List Item → State → State
  | [], s => s.finish
  | it :: rest, s => if it = .unsupported then packItem it s else packScan rest (packItem it s)

/-- `PACK`: the whole operation (R140). -/
def execPack (s : State) : Outcome State Fault Refusal :=
  andThen (s.startOp .pack) fun s1 => .next (packScan s1.items s1)

/-- An item as a step of its own: the one at the cursor of a running `PACK`. -/
def itemAtCursor (it : Item) (s : State) : Outcome State Fault Refusal :=
  if s.running .pack = false then .refused .noOperationRunning
  else if s.items[s.pIdx]? = some it then .next (packItem it s)
  else .refused .notAtCursor

/-- `ITEM.Int32` (R141). -/
def execItemInt32 (w : Word) (s : State) : Outcome State Fault Refusal :=
  itemAtCursor (.int32 w) s

/-- `ITEM.Float32` (R142). -/
def execItemFloat32 (w : Word) (s : State) : Outcome State Fault Refusal :=
  itemAtCursor (.float32 w) s

/-- `ITEM.RawBytes` (R143). -/
def execItemRawBytes (bs : List Byte) (s : State) : Outcome State Fault Refusal :=
  itemAtCursor (.rawBytes bs) s

/-- `ITEM.Unsupported` (R144). -/
def execItemUnsupported (s : State) : Outcome State Fault Refusal :=
  itemAtCursor .unsupported s

/-- One pattern element of `UNPACK` (lines U3 to U8, R161, R162, R164). -/
def unpackElem (t : Tag) (s : State) : State :=
  match s.inp.drop s.uBpos with
  | b0 :: b1 :: b2 :: b3 :: _ =>
    { s with
      vals := s.vals ++ [valueOf t (wordLe b0 b1 b2 b3)]
      uBpos := s.uBpos + Config.valueBytes
      uIdx := s.uIdx + 1 }
  | _ => s.raise .truncatedPayload

/-- The loop of `UNPACK` over the pattern (line U2); the first element with fewer than 4 bytes left ends it (R164). -/
def unpackScan : List Tag → State → State
  | [], s => s.finish
  | t :: rest, s => if s.short then unpackElem t s else unpackScan rest (unpackElem t s)

/-- `UNPACK`: the whole operation (R160). -/
def execUnpack (s : State) : Outcome State Fault Refusal :=
  andThen (s.startOp .unpack) fun s1 => .next (unpackScan s1.pat s1)

/-- A pattern element as a step of its own: the one at the cursor of a running `UNPACK`. -/
def elemAtCursor (t : Tag) (s : State) : Outcome State Fault Refusal :=
  if s.running .unpack = false then .refused .noOperationRunning
  else if s.pat[s.uIdx]? = some t then .next (unpackElem t s)
  else .refused .notAtCursor

/-- `PAT.Int` (R161). -/
def execPatInt (s : State) : Outcome State Fault Refusal :=
  elemAtCursor .int s

/-- `PAT.Float` (R162). -/
def execPatFloat (s : State) : Outcome State Fault Refusal :=
  elemAtCursor .float s

end Sys2Proof.Machine
end

