-- ==== Sys2Proof/Machine/Environment.lean ====
section
/-! DEFINITION. The environment around the block: the transport, the Transaction Guard, the command rows `ENV`, and the
environment's own actions (spec/44_environment_protocol.md, spec/70_reset_and_hazards.md rule R243). -/

namespace Sys2Proof.Machine

/-- Split the arrived bytes behind the first `0x00`: one frame with its terminator, and the rest; `none` while there is no
terminator (R75, R181). A stray `0x00` in front of a frame is handed over as a frame of its own, of one byte: whether it can reach
`DEC` and who would remove it is not said (N16). DESIGN CHOICE, notes/assumptions/19.md. -/
def takeFrame : List Byte → Option (List Byte × List Byte)
  | [] => none
  | b :: rest =>
    if b = Config.sentinel then some ([b], rest)
    else
      match takeFrame rest with
      | some (frame, rest') => some (b :: frame, rest')
      | none => none

/-- A close is requested: it is the environment's next action (R189). -/
def State.closeRequested (s : State) : Bool :=
  match s.cmds with
  | .act .close :: _ => true
  | _ => false

/-- A point of a command in flight at which a requested close may fall, because acquisition, the check and the input and output are not
atomic with respect to it (R189); whether it does is a free value, notes/assumptions/29.md. -/
def State.gap (s : State) : State :=
  match s.cmds with
  | .act .close :: rest =>
    if Config.closeFalls s.fresh = true then { s with fresh := s.fresh + 1, cmds := rest, chanOpen := false }
    else { s with fresh := s.fresh + 1 }
  | _ => s

/-- A read that ends without a frame takes away some of the arrived bytes, how many is open: a free value,
notes/assumptions/19.md. -/
def State.loseArrived (s : State) : State :=
  { s with fresh := s.fresh + 1, rx := s.rx.drop (Config.freeIndex s.fresh) }

/-- `transport.read_bytes()` (R181): one frame of the arrived bytes. While none is there the read blocks, or its timeout expires and
it returns any bytes (U20); on a closed channel it may fail (U18). Free values, notes/assumptions/18.md and 19.md. -/
def State.readBytes (s : State) : Received × State :=
  if s.chanOpen = false ∧ Config.transportFails s.fresh = true then (.failed, s.loseArrived)
  else
    match takeFrame s.rx with
    | some (frame, rest) => (.bytes frame, { s with fresh := s.fresh + 1, rx := rest })
    | none =>
      if Config.readTimesOut s.fresh = true then (.bytes (Config.timeoutBytes s.fresh), s.loseArrived)
      else (.waits, { s with fresh := s.fresh + 1 })

/-- `SENDFRAME opcode, items`: `PACK`, then `ENC` of the opcode byte and the payload, then `write_bytes` (R92, R191), then go on as it
ended. When `PACK` ends with its error outcome nothing is sent and the caller gets `BadCommand` with the argument list (R195). -/
def sendFrame (opcode : Byte) (items : List Item) (sent failed : State → State) (s : State) :
    Outcome State Fault Refusal :=
  andThen (s.writeItems items) fun s1 =>
  andThen (execPack s1) fun s2 =>
  if s2.status = .ok then
    andThen (s2.outToIn [opcode]) fun s3 =>
    andThen (execEnc s3) (State.transmit sent failed)
  else .next (failed (s2.deliver (.badCommand items)))

/-- The end of a transaction: released after a normal end; after an error the spec does not say whether the lock is still held
(R188, R199), a free value, notes/assumptions/15.md. -/
def State.release (s : State) (error : Bool) : State :=
  { s with
    fresh := if error then s.fresh + 1 else s.fresh
    chanLocked := if error then s.chanLocked && Config.lockHeldAfterError s.fresh else false }

/-- How a command goes on when its frame is sent: without a reply it is released and done, otherwise its read is the next thing to do
(R188). -/
def State.commandSent (reply : Option (List Tag)) (s : State) : State :=
  match reply with
  | none => (s.release false).deliver .done
  | some tags => s.push (.act (.reply tags))

/-- A command under the Transaction Guard: acquire, check that the channel is open, send, and then release or wait for the reply
(R187, R188, R191). While the lock is held the command waits and stays pending (notes/assumptions/16.md); on a closed channel it
returns at once, without input or output and without release (R188, C10). A requested close may fall between the acquisition and the
check, between the check and the write, and before the read (R189). -/
def transact (payload : List Byte) (opcode : Byte) (items : List Item) (reply : Option (List Tag)) (s : State) :
    Outcome State Fault Refusal :=
  if s.phase = .busy then .refused .startWhileBusy
  else if s.chanLocked = true then .next (s.push (.command payload))
  else
    let s1 := State.gap { s with chanLocked := true }
    if s1.chanOpen = false then .next (s1.deliver .closedNoOp)
    else sendFrame opcode items (State.commandSent reply) (fun s2 => s2.release true) s1.gap

/-- `ENV.SetMotor`: the speed is checked first, before anything is acquired or packed (R193, R194; notes/assumptions/14.md). -/
def execEnvSetMotor (speed : Word) (s : State) : Outcome State Fault Refusal :=
  if motorSpeedOk speed = false then .next (s.deliver (.badCommand [.int32 speed]))
  else transact (1 :: le32 speed) 1 [.int32 speed] none s

/-- `ENV.RequestEncoder` (R196). -/
def execEnvRequestEncoder (s : State) : Outcome State Fault Refusal :=
  transact [2] 2 [] (some [.int]) s

/-- `ENV.SetPid` (R197). -/
def execEnvSetPid (kp ki kd zeroOutput minOutput maxOutput integralRegion integralMax : Word) (s : State) :
    Outcome State Fault Refusal :=
  let args := [kp, ki, kd, zeroOutput, minOutput, maxOutput, integralRegion, integralMax]
  transact (3 :: args.flatMap le32) 3 (args.map .float32) none s

/-- `ENV.SetPosition` (R198). -/
def execEnvSetPosition (position : Word) (s : State) : Outcome State Fault Refusal :=
  transact (4 :: le32 position) 4 [.int32 position] (some [.int]) s

/-- `read_bytes()` into `IN`, then go on as the call ended. While it blocks it stays pending as `again` (R181, R183). -/
def readFrame (again : EnvOp) (s : State) (got : State → Outcome State Fault Refusal) (failed : State → State) :
    Outcome State Fault Refusal :=
  if s.phase = .busy then .refused .writeWhileBusy
  else
    match s.gap.readBytes with
    | (.bytes frame, s1) => andThen (s1.writeIn frame) got
    | (.failed, s1) => .next (failed (s1.deliver .transportFailed))
    | (.waits, s1) => .next (s1.push (.act again))

/-- `read_bytes()` with the bytes to the environment (R181). -/
def readToCaller (s : State) : State :=
  match s.gap.readBytes with
  | (.bytes bs, s1) => s1.record (.received bs)
  | (.failed, s1) => s1.deliver .transportFailed
  | (.waits, s1) => s1.push (.act .readBytes)

/-- What the caller of a read with a pattern gets when `UNPACK` has ended (R163, R185, R199). -/
def State.replyResult (s : State) : CallResult :=
  if s.status = .ok then .values s.vals s.out else .truncatedPayload

/-- `read_bytes`, `DEC`, `UNPACK` with the pattern, the result to the caller (R92, R183, R199); `ended` is told whether it was an
error. -/
def receiveValues (again : EnvOp) (tags : List Tag) (ended : Bool → State → State) (s : State) :
    Outcome State Fault Refusal :=
  readFrame again s
    (fun s1 =>
      andThen (execDec s1) fun s2 =>
      andThen (s2.outToIn []) fun s3 =>
      andThen (s3.writePat tags) fun s4 =>
      andThen (execUnpack s4) fun s5 => .next (ended (s5.status != .ok) (s5.deliver s5.replyResult)))
    (ended true)

/-- The macro `RECVVALS tags` alone: no lock is touched (R92; notes/assumptions/28.md). -/
def recvVals (tags : List Tag) (s : State) : Outcome State Fault Refusal :=
  receiveValues (.recvVals tags) tags (fun _ s1 => s1) s

/-- The rest of a command with a reply: `RECVVALS tags`, then release (R183, R188). -/
def commandReply (tags : List Tag) (s : State) : Outcome State Fault Refusal :=
  receiveValues (.reply tags) tags (fun error s1 => s1.release error) s

/-- The environment keeps waiting at this action while the block runs (R243, R245): it awaits the end, or it is about to drive the
block through a whole command or macro. Every other action is done at once, so a misuse is a step of the model (a refusal). -/
def EnvAction.waits : EnvAction → Bool
  | .start _ => false
  | .command _ => true
  | .act .await => true
  | .act .readBytes => true
  | .act .receive => true
  | .act (.sendFrame _ _) => true
  | .act (.recvVals _) => true
  | .act (.reply _) => true
  | .act _ => false

/-- One action of the environment. -/
def runEnvOp (a : EnvOp) (s : State) : Outcome State Fault Refusal :=
  match a with
  | .await => .next s
  | .writeIn bs => s.writeIn bs
  | .writeItems items => s.writeItems items
  | .writePat tags => s.writePat tags
  | .beginOp bits => s.startOp (Op.ofBits bits)
  | .readOpsel =>
    match s.readOpsel with
    | .error r => .refused r
    | .ok op => .next (s.record (.opsel op))
  | .readPhase => .next (s.record (.phase s.phase))
  | .readResultValid => .next (s.record (.resultValid s.resultValid))
  | .readStatus =>
    match s.readStatus with
    | .error r => .refused r
    | .ok st => .next (s.record (.status st))
  | .readOut =>
    match s.readOut with
    | .error r => .refused r
    | .ok bs => .next (s.record (.out bs))
  | .readVal =>
    match s.readVal with
    | .error r => .refused r
    | .ok vs => .next (s.record (.vals vs))
  | .outToIn front => s.outToIn front
  | .writeBytes bs => .next (s.sendBytes bs id id)
  | .readBytes => .next (readToCaller s)
  | .transmit => s.transmit id id
  | .receive => readFrame .receive s .next id
  | .sendFrame opcode items => sendFrame opcode items id id s
  | .recvVals tags => recvVals tags s
  | .reply tags => commandReply tags s
  | .isOpen => .next (s.record (.isOpen s.chanOpen))
  | .close => .next { s with chanOpen := false }
  | .openChannel => .next { s with chanOpen := true, chanLocked := false }
  | .reset => .next s.resetBlock

end Sys2Proof.Machine
end

