-- ==== Sys2Proof/Machine/Dispatch.lean ====
section
/-! DEFINITION. The meaning of every instruction: one arm per constructor of `Instr`, in the opcode table's order. -/

namespace Sys2Proof.Machine

def exec (i : Instr) (s : State) : Host.Outcome State Fault Refusal :=
  match i with
  | .enc => Sys2Proof.Machine.execEnc s
  | .dec => Sys2Proof.Machine.execDec s
  | .pack => Sys2Proof.Machine.execPack s
  | .unpack => Sys2Proof.Machine.execUnpack s
  | .codeZero => Sys2Proof.Machine.execCodeZero s
  | .codeRun n => Sys2Proof.Machine.execCodeRun n s
  | .codeForced => Sys2Proof.Machine.execCodeForced s
  | .itemInt32 w => Sys2Proof.Machine.execItemInt32 w s
  | .itemFloat32 w => Sys2Proof.Machine.execItemFloat32 w s
  | .itemRawBytes bs => Sys2Proof.Machine.execItemRawBytes bs s
  | .itemUnsupported => Sys2Proof.Machine.execItemUnsupported s
  | .patInt => Sys2Proof.Machine.execPatInt s
  | .patFloat => Sys2Proof.Machine.execPatFloat s
  | .statusOk => Sys2Proof.Machine.execStatusOk s
  | .statusUnsupportedArgumentType => Sys2Proof.Machine.execStatusUnsupportedArgumentType s
  | .statusTruncatedPayload => Sys2Proof.Machine.execStatusTruncatedPayload s
  | .statusReserved => Sys2Proof.Machine.execStatusReserved s
  | .envSetMotor speed => Sys2Proof.Machine.execEnvSetMotor speed s
  | .envRequestEncoder => Sys2Proof.Machine.execEnvRequestEncoder s
  | .envSetPid kp ki kd zo mino maxo ir im => Sys2Proof.Machine.execEnvSetPid kp ki kd zo mino maxo ir im s
  | .envSetPosition position => Sys2Proof.Machine.execEnvSetPosition position s

end Sys2Proof.Machine
end

