-- ==== Sys2Proof/Machine/Fetch.lean ====
section
/-! DEFINITION. What the machine does next: the environment's next action, or the next element of the running operation
(spec/10_state.md rules R30, R31, R41; notes/assumptions/3.md). -/

namespace Sys2Proof.Machine

/-- What a step is about to do. -/
inductive Fetched where
  /-- Bytes of a code space to decode and run. -/
  | instr (sp : CodeSpace) (bs : List Byte)
  /-- A payload byte of a running `ENC`, which is no row of the table (R103, R104). -/
  | encByte (b : Byte)
  /-- An action of the environment that is no instruction. -/
  | action (a : EnvOp)
  /-- Nothing: the block is idle and the environment has no action. -/
  | nothing
  deriving DecidableEq, Repr

/-- The next element of the running operation, at its cursor (R30): a payload byte, a run-length byte, an item or a pattern element;
at the end of the loop the completion, and `TruncatedPayload` where the check of line U3 fails. -/
def fetchBlock (s : State) : Fetched :=
  match s.phase with
  | .idle => .nothing
  | .busy =>
    match s.opsel with
    | .enc =>
      match s.inp[s.eIpos]? with
      | some b => .encByte b
      | none => .instr .status (Status.bytes .ok)
    | .dec =>
      match s.inp[s.dIpos]? with
      | some n => .instr .code [n]
      | none => .instr .status (Status.bytes .ok)
    | .pack =>
      match s.items[s.pIdx]? with
      | some it => .instr .item (Item.bytes it)
      | none => .instr .status (Status.bytes .ok)
    | .unpack =>
      match s.pat[s.uIdx]? with
      | some t => if s.short then .instr .status (Status.bytes .truncatedPayload) else .instr .pat (Tag.bytes t)
      | none => .instr .status (Status.bytes .ok)

/-- The next thing to do, and the state with it taken: the environment's action unless it waits for a running block. -/
def fetch (s : State) : Fetched × State :=
  match s.cmds with
  | [] => (fetchBlock s, s)
  | a :: rest =>
    if a.waits = true ∧ s.phase = .busy then (fetchBlock s, s)
    else
      match a with
      | .start bits => (.instr .opsel [bits.setWidth 8], { s with cmds := rest })
      | .command payload => (.instr .env payload, { s with cmds := rest })
      | .act a => (.action a, { s with cmds := rest })

/-- Put an instruction where the next step meets it: an operation or a command as the environment's next action, its operands
written (empty where they were not); a run-length byte as the first byte of a running `DEC`. -/
def State.place (s : State) (i : Instr) : State :=
  match i with
  | .enc | .dec | .pack | .unpack =>
    { s.push (.start (((encode i).2.headD 0).setWidth 2)) with
      phase := .idle
      inpHeld := true
      itemsHeld := true
      patHeld := true }
  | .envSetMotor _ | .envRequestEncoder | .envSetPid _ _ _ _ _ _ _ _ | .envSetPosition _ =>
    { s.push (.command (encode i).2) with phase := .idle }
  | .codeZero | .codeRun _ | .codeForced =>
    { (s.started .dec).push (.act .await) with inp := (encode i).2, inpHeld := true }
  | .itemInt32 _ | .itemFloat32 _ | .itemRawBytes _ | .itemUnsupported | .patInt | .patFloat | .statusOk
  | .statusUnsupportedArgumentType | .statusTruncatedPayload | .statusReserved => s

end Sys2Proof.Machine
end

