-- ==== Sys2Proof/Machine/Step.lean ====
section
/-! DEFINITION. One step: take what comes next, decode it, run it (spec/10_state.md rules R30, R31, R41). -/

namespace Sys2Proof.Machine

/-- One step of the machine. With nothing to do an idle block holds its last result (R229). -/
def step (s : State) : Host.Outcome State Fault Refusal :=
  match fetch s with
  | (.instr sp bs, s1) =>
    match decode sp bs with
    | .ok i => exec i s1
    | .error e => .refused (.undecodable e)
  | (.encByte b, s1) => encStep b s1
  | (.action a, s1) => runEnvOp a s1
  | (.nothing, s1) => .next s1

/-- The state with a table word's instruction where the next step meets it; a word that is no instruction changes nothing. -/
def State.withFetchWord (s : State) (nbits w : Nat) : State :=
  match decodeTableWord nbits w with
  | some i => s.place i
  | none => s

end Sys2Proof.Machine
end

