-- ==== Sys2Proof/Machine/Functions.lean ====
section
/-! DEFINITION. The four functions of the block on plain sequences, without registers, patching or state: what the statements
compare the operations with (spec/30_encoding.md rules R71 to R73, R83; spec/92_eei_decisions.md D1). No meaning calls them. -/

namespace Sys2Proof.Machine

/-- `ENC` run by run: `run` is the data of the run that is open. A zero closes it with its length plus one, the 254th data byte
closes it with `0xFF`, the end of the payload closes it and adds the terminator (R71 to R73, R101). -/
def cobsEncodeFrom (run : List Byte) : List Byte → List Byte
  | [] => BitVec.ofNat 8 (run.length + 1) :: (run ++ [Config.sentinel])
  | b :: rest =>
    if b = Config.sentinel then BitVec.ofNat 8 (run.length + 1) :: (run ++ cobsEncodeFrom [] rest)
    else if run.length + 1 = Config.maxRunData then Config.maxCode :: (run ++ b :: cobsEncodeFrom [] rest)
    else cobsEncodeFrom (run ++ [b]) rest

/-- The frame of a payload. -/
def cobsEncode (p : List Byte) : List Byte := cobsEncodeFrom [] p

/-- `DEC` byte by byte: `left` data bytes of the current run are still to come, and `zero` says that its code was below `0xFF`. The
implied zero of a run is emitted when the next run-length byte is met, unless that is the final boundary (R73, R124, R125). -/
def cobsDecodeFrom (boundary : FinalBoundary) (left : Nat) (zero : Bool) : List Byte → List Byte
  | [] => []
  | b :: rest =>
    match left with
    | k + 1 => b :: cobsDecodeFrom boundary k zero rest
    | 0 =>
      let final := match boundary with
        | .atMostOneUnread => rest.isEmpty
        | .nextAbsentOrZero => b == 0
      (if zero && !final then [Config.sentinel] else []) ++
        cobsDecodeFrom boundary (b.toNat - 1) (b != Config.maxCode) rest

/-- The payload of a byte sequence taken as a frame. -/
def cobsDecode (boundary : FinalBoundary) (f : List Byte) : List Byte := cobsDecodeFrom boundary 0 false f

/-- `PACK` on a list: the concatenation of the items' serialisations; `none` is `UnsupportedArgumentType` (R83, R144). -/
def packBytes : List Item → Option (List Byte)
  | [] => some []
  | it :: rest =>
    match Item.serialise it, packBytes rest with
    | some bs, some p => some (bs ++ p)
    | _, _ => none

/-- `UNPACK` on a payload and a pattern: the values and the remainder; `none` is `TruncatedPayload` (R160, R164). -/
def unpackBytes : List Tag → List Byte → Option (List Value × List Byte)
  | [], p => some ([], p)
  | t :: tags, b0 :: b1 :: b2 :: b3 :: p =>
    match unpackBytes tags p with
    | some (vs, rest) => some (valueOf t (wordLe b0 b1 b2 b3) :: vs, rest)
    | none => none
  | _ :: _, _ => none

/-- The frame grammar from inside a run with `left` data bytes to come, the current code being `0xFF` or not: no byte but the last is
`0x00`, a run of code `0xFF` is followed by another run, and the sequence ends with `0x00` after a complete run (R71, R106). -/
def frameTail (left : Nat) (forced : Bool) : List Byte → Bool
  | [] => false
  | b :: rest =>
    match left with
    | k + 1 => b != Config.sentinel && frameTail k forced rest
    | 0 =>
      if b = Config.sentinel then rest.isEmpty && !forced
      else frameTail (b.toNat - 1) (b == Config.maxCode) rest

/-- The form of a frame that `ENC` makes: at least one run, then the terminator (R71, R106 (e)). -/
def isFrame : List Byte → Bool
  | [] => false
  | n :: rest => n != Config.sentinel && frameTail (n.toNat - 1) (n == Config.maxCode) rest

/-- How many run-length bytes of a frame are `0xFF` (R133), from inside a run with `left` data bytes to come. -/
def forcedRuns (left : Nat) : List Byte → Nat
  | [] => 0
  | b :: rest =>
    match left with
    | k + 1 => forcedRuns k rest
    | 0 => (if b = Config.maxCode then 1 else 0) + forcedRuns (b.toNat - 1) rest

/-- How many bytes of a payload are zero (R107). -/
def zeroCount (p : List Byte) : Nat := p.count Config.sentinel

/-- The tag that matches a numeric item; `none` for the other shapes (R151). -/
def Item.tag : Item → Option Tag
  | .int32 _ => some .int
  | .float32 _ => some .float
  | _ => none

/-- The value a numeric item is; `none` for the other shapes (R151). -/
def Item.value : Item → Option Value
  | .int32 w => some (.int32 w)
  | .float32 w => some (.float32 w)
  | _ => none

end Sys2Proof.Machine
end

