-- ==== Sys2Proof/Safety.lean ====
section
/-! DEFINITION. The terms the statements use: when an operation may start, what a completion and an error outcome look like, what
stays unchanged, and the invariant of every reachable state (spec/10_state.md rules R23 to R28, R32, R34, R36). -/

namespace Sys2Proof.Machine

/-- The instruction that an operation is. -/
def Op.instr : Op → Instr
  | .enc => .enc
  | .dec => .dec
  | .pack => .pack
  | .unpack => .unpack

/-- An operation may start: the block is idle, the operands are written and everything fits (R243, R58). -/
def State.ready (s : State) (op : Op) : Prop :=
  s.phase = .idle ∧ s.operandsHeld op = true ∧ s.capacityOk op = true

/-- A command may run undisturbed: the block is idle, the channel is open and unlocked, and no close is requested, as the caller's
contract asks (R187, R188, R189, R243). -/
def State.channelReady (s : State) : Prop :=
  s.phase = .idle ∧ s.chanOpen = true ∧ s.chanLocked = false ∧ s.closeRequested = false

/-- A command with these items and opcode fits the capacities (R58). -/
def State.sendFits (s : State) (opcode : Byte) (items : List Item) (p : List Byte) : Prop :=
  within s.params.capItems items.length = true ∧ within s.params.capBytes p.length = true ∧
    within s.params.capBytes (encLength (opcode :: p)) = true

/-- The operands are unchanged. -/
def SameOperands (s t : State) : Prop :=
  t.inp = s.inp ∧ t.inpHeld = s.inpHeld ∧ t.items = s.items ∧ t.itemsHeld = s.itemsHeld ∧ t.pat = s.pat ∧
    t.patHeld = s.patHeld

/-- The control elements are unchanged. -/
def SameControl (s t : State) : Prop :=
  t.phase = s.phase ∧ t.opsel = s.opsel ∧ t.opselHeld = s.opselHeld ∧ t.status = s.status ∧ t.resultValid = s.resultValid

/-- The working registers of `ENC` are unchanged. -/
def SameEncRegs (s t : State) : Prop :=
  t.eIpos = s.eIpos ∧ t.eDist = s.eDist ∧ t.ePatch = s.ePatch

/-- The working registers of `DEC` are unchanged. -/
def SameDecRegs (s t : State) : Prop :=
  t.dIpos = s.dIpos ∧ t.dN = s.dN ∧ t.dLeft = s.dLeft

/-- The working register of `PACK` is unchanged. -/
def SamePackRegs (s t : State) : Prop :=
  t.pIdx = s.pIdx

/-- The working registers of `UNPACK` are unchanged. -/
def SameUnpackRegs (s t : State) : Prop :=
  t.uIdx = s.uIdx ∧ t.uBpos = s.uBpos

/-- The environment is unchanged, and with it the parameters. -/
def SameSurroundings (s t : State) : Prop :=
  t.params = s.params ∧ t.cmds = s.cmds ∧ t.readings = s.readings ∧ t.calls = s.calls ∧ t.chanOpen = s.chanOpen ∧
    t.chanLocked = s.chanLocked ∧ t.tx = s.tx ∧ t.rx = s.rx

/-- The working registers of every operation but this one are unchanged. That a register of an operation that is not running keeps its
value is the model's choice: U10 gives it any value (notes/assumptions/21.md). -/
def SameOtherRegs (op : Op) (s t : State) : Prop :=
  (op ≠ .enc → SameEncRegs s t) ∧ (op ≠ .dec → SameDecRegs s t) ∧ (op ≠ .pack → SamePackRegs s t) ∧
    (op ≠ .unpack → SameUnpackRegs s t)

/-- The operation completed with `OK`; `VAL[]` holds a value after `UNPACK` only (R32, R34, R56). -/
def CompletedOk (op : Op) (t : State) : Prop :=
  t.phase = .idle ∧ t.opsel = op ∧ t.status = .ok ∧ t.resultValid = true ∧ t.outHeld = true ∧
    t.valsHeld = (op == .unpack)

/-- The operation ended with an error outcome, which delivers no data (R212, R214). -/
def EndedWith (e : Status) (op : Op) (t : State) : Prop :=
  t.phase = .idle ∧ t.opsel = op ∧ t.status = e ∧ t.resultValid = true ∧ t.outHeld = false ∧ t.valsHeld = false

/-- What holds of the result elements in every reachable state: results are valid only when the block is idle, `OUT` holds a value
exactly after `OK`, `VAL[]` exactly after an `UNPACK` that ended with `OK`, and an error is of the operation that can raise it
(R32, R34, R56, R214). -/
def State.resultInv (s : State) : Prop :=
  (s.phase = .busy → s.resultValid = false) ∧
  s.outHeld = (s.resultValid && s.status == .ok) ∧
  s.valsHeld = (s.resultValid && s.status == .ok && s.opsel == .unpack) ∧
  (s.resultValid = true → s.status = .unsupportedArgumentType → s.opsel = .pack) ∧
  (s.resultValid = true → s.status = .truncatedPayload → s.opsel = .unpack)

/-- What holds of the working registers while their operation runs (R23 to R28, R36). -/
def State.workInv (s : State) : Prop :=
  match s.opsel with
  | .enc =>
    s.eIpos ≤ s.inp.length ∧ 1 ≤ s.eDist.toNat ∧ s.eDist.toNat ≤ 254 ∧ s.ePatch + s.eDist.toNat = s.out.length ∧
      s.out[s.ePatch]? = some Config.placeholder
  | .dec => s.dIpos ≤ s.inp.length
  | .pack => s.pIdx ≤ s.items.length
  | .unpack =>
    s.uIdx ≤ s.pat.length ∧ s.uBpos = Config.valueBytes * s.uIdx ∧ s.uBpos ≤ s.inp.length ∧ s.vals.length = s.uIdx

/-- The invariant of the machine: of the results and the range of `d_left` always (R26); of the operands and working registers while
an operation runs. -/
def State.Inv (s : State) : Prop :=
  s.resultInv ∧ s.dLeft ≤ Config.maxRunData ∧
    (s.phase = .busy → s.operandsHeld s.opsel = true ∧ s.capacityOk s.opsel = true ∧ s.workInv)

/-- The operands an operation uses are the same (R56). -/
def SameUsedOperands (op : Op) (s t : State) : Prop :=
  match op with
  | .enc => t.inp = s.inp
  | .dec => t.inp = s.inp
  | .pack => t.items = s.items
  | .unpack => t.inp = s.inp ∧ t.pat = s.pat

/-- The environment has nothing to do before the block is idle: no action, or one that waits (R243). -/
def State.waiting (s : State) : Prop :=
  ∀ a rest, s.cmds = a :: rest → a.waits = true

/-- The block runs this operation and the environment waits for it. -/
def State.runsUndisturbed (s : State) (op : Op) : Prop :=
  s.phase = .busy ∧ s.opsel = op ∧ s.waiting

/-- `k` steps, stopping at the first fault or refusal. -/
def State.run : Nat → State → Outcome State Fault Refusal
  | 0, s => .next s
  | k + 1, s => andThen (step s) (State.run k)

/-- A step answers no fault. -/
def NoFault (o : Outcome State Fault Refusal) : Prop :=
  ∀ r, o ≠ .fault r

end Sys2Proof.Machine
end

