-- ==== Sys2Proof/Certificates/Slice0/Obligations.lean ====
section
/-! DEFINITION. The statements for the provers, in the order of OBLIGATIONS.json. Each docstring says which rule or section of the
spec it formalises. -/

open Sys2Proof Sys2Proof.Machine

/-! ### Reset, control and hazards -/

/-- 70_reset_and_hazards section 1 (R240, D14): the machine after reset is idle and has no result, and a reset of the block,
whatever runs, leaves it so, with nothing to read and the environment as it was. That a running operation is abandoned is the
spec's own decision; that every operand counts as unwritten is the model's reading of R37 (notes/assumptions/5.md). -/
def Obligations.ResetLeavesIdleWithoutResult : Prop :=
  State.reset.phase = .idle ∧ State.reset.resultValid = false ∧
  ∀ (s : State) (rest : List EnvAction), s.cmds = .act .reset :: rest →
    ∃ t, step s = .next t ∧ t.phase = .idle ∧ t.resultValid = false ∧ t.opselHeld = false ∧ t.inpHeld = false ∧
      t.itemsHeld = false ∧ t.patHeld = false ∧ t.outHeld = false ∧ t.valsHeld = false ∧ SameSurroundings { s with cmds := rest } t

/-- The invariant holds at reset. -/
def Obligations.ResetMeetsTheInvariant : Prop :=
  State.reset.Inv

/-- 30_encoding (R72, R79, R88 to R90) and 60_exceptions (R211): some words of every code space, written out from the tables. The
items' clauses rest on the model's layout of an item, its tag byte and then its content bytes, which R89 leaves open: the model's
choice, notes/assumptions/11.md. -/
def Obligations.SpecWordsDecodeAsTheTablesSay : Prop :=
  decode .opsel [0b00] = .ok .enc ∧ decode .opsel [0b01] = .ok .dec ∧ decode .opsel [0b10] = .ok .pack ∧
  decode .opsel [0b11] = .ok .unpack ∧
  decode .code [0b00000000] = .ok .codeZero ∧ decode .code [0x06] = .ok (.codeRun 6) ∧
  decode .code [0b11111111] = .ok .codeForced ∧
  decode .item [0b00, 0x64, 0x00, 0x00, 0x00] = .ok (.itemInt32 100) ∧
  decode .item [0b01, 0x00, 0x00, 0x20, 0x40] = .ok (.itemFloat32 0x40200000) ∧
  decode .item [0b10, 0xAA, 0xBB, 0xCC] = .ok (.itemRawBytes [0xAA, 0xBB, 0xCC]) ∧
  decode .item [0b11] = .ok .itemUnsupported ∧
  decode .pat [0] = .ok .patInt ∧ decode .pat [1] = .ok .patFloat ∧
  decode .status [0b00] = .ok .statusOk ∧ decode .status [0b10] = .ok .statusTruncatedPayload ∧
  decode .env [0x01, 0x64, 0x00, 0x00, 0x00] = .ok (.envSetMotor 100) ∧
  decode .env [0x02] = .ok .envRequestEncoder ∧
  decode .env [0x04, 0xE8, 0x03, 0x00, 0x00] = .ok (.envSetPosition 1000)

/-- What a step runs (R30, R31, R41; notes/assumptions/3.md): the instruction its bytes decode to. A start or a command is taken from the
environment's actions; otherwise the element at the cursor of the running operation is met in place, and at the end of its loop the
completion. The scheduling is the model's choice (notes/assumptions/3.md), and so is that a step runs the `CODE`, `ITEM` and `PAT` rows at
the cursor (notes/assumptions/10.md); that the `STATUS` rows are the completion is its reading (notes/assumptions/9.md). -/
def Obligations.StepRunsTheDecodedInstruction : Prop :=
  (∀ (s : State) (bits : BitVec 2) (rest : List EnvAction) (i : Instr), s.cmds = .start bits :: rest →
    decode .opsel [bits.setWidth 8] = .ok i → step s = exec i { s with cmds := rest }) ∧
  (∀ (s : State) (bs : List Byte) (rest : List EnvAction) (i : Instr), s.cmds = .command bs :: rest → s.phase = .idle →
    decode .env bs = .ok i → step s = exec i { s with cmds := rest }) ∧
  (∀ (s : State) (n : Byte) (i : Instr), s.runsUndisturbed .dec → s.inp[s.dIpos]? = some n → decode .code [n] = .ok i →
    step s = exec i s) ∧
  (∀ (s : State) (it : Item) (i : Instr), s.runsUndisturbed .pack → s.items[s.pIdx]? = some it →
    decode .item (Item.bytes it) = .ok i → step s = exec i s) ∧
  (∀ (s : State) (g : Tag) (i : Instr), s.runsUndisturbed .unpack → s.pat[s.uIdx]? = some g → s.short = false →
    decode .pat (Tag.bytes g) = .ok i → step s = exec i s) ∧
  (∀ (s : State) (g : Tag), s.runsUndisturbed .unpack → s.pat[s.uIdx]? = some g → s.short = true →
    step s = exec .statusTruncatedPayload s) ∧
  (∀ (s : State) (op : Op), s.runsUndisturbed op → s.loopDone = true → step s = exec .statusOk s)

/-- 60_exceptions section 1 (R211, U2): the status code 3 is never produced, and there is no step for it. -/
def Obligations.ReservedStatusIsRefused : Prop :=
  ∀ s : State, exec .statusReserved s = .refused .statusReserved

/-- 10_state section 10 and 60_exceptions section 2 (R40, R219, D16): while an operation runs, a start and an operand write are
refused, as operations and as the environment's next action. -/
def Obligations.MisuseWhileBusyIsRefused : Prop :=
  ∀ (s : State), s.phase = .busy →
    (∀ op : Op, exec (Op.instr op) s = .refused .startWhileBusy) ∧
    (∀ (bits : BitVec 2) (rest : List EnvAction), s.cmds = .start bits :: rest → step s = .refused .startWhileBusy) ∧
    (∀ (bs : List Byte) (rest : List EnvAction), s.cmds = .act (.writeIn bs) :: rest →
      step s = .refused .writeWhileBusy) ∧
    (∀ (items : List Item) (rest : List EnvAction), s.cmds = .act (.writeItems items) :: rest →
      step s = .refused .writeWhileBusy) ∧
    (∀ (tags : List Tag) (rest : List EnvAction), s.cmds = .act (.writePat tags) :: rest →
      step s = .refused .writeWhileBusy)

/-- 10_state section 9 and 93 U9 (R37): an operation whose operand has not been written since reset is refused; which operands it
uses is R56. -/
def Obligations.UnwrittenOperandIsRefused : Prop :=
  ∀ s : State, s.phase = .idle →
    (s.inpHeld = false → exec .enc s = .refused .operandUnwritten ∧ exec .dec s = .refused .operandUnwritten) ∧
    (s.itemsHeld = false → exec .pack s = .refused .operandUnwritten) ∧
    (s.inpHeld = false ∨ s.patHeld = false → exec .unpack s = .refused .operandUnwritten)

/-- 20_memory section 4 (R58, D3): an operand or a result longer than a capacity is refused, and a result that is given fits. -/
def Obligations.CapacitiesBoundOperandsAndResults : Prop :=
  (∀ (s : State) (op : Op), s.phase = .idle → s.operandsHeld op = true → s.capacityOk op = false →
    exec (Op.instr op) s = .refused .capacityExceeded) ∧
  (∀ (s t : State) (op : Op), exec (Op.instr op) s = .next t → t.outHeld = true →
    within s.params.capBytes t.out.length = true) ∧
  (∀ (s t : State), exec .unpack s = .next t → t.valsHeld = true →
    within s.params.capItems t.vals.length = true)

/-- 60_exceptions section 2, 70_reset_and_hazards section 3, 10_state sections 1 and 9 (R214, R219, R247, R21, R37): in a state
that meets the invariant, `STATUS` can be read exactly while a result is valid, `OUT` exactly after `OK`, `VAL[]` exactly after an
`UNPACK` that ended with `OK`, and `OPSEL` exactly once it has been written; what is read is what the element holds. The mark that
`OPSEL` has been written is the model's reading of R37 and U9 (notes/assumptions/5.md). -/
def Obligations.ResultsAreReadOnlyWhenValid : Prop :=
  ∀ s : State, s.Inv →
    ((∃ t, runEnvOp .readStatus s = .next t) ↔ s.resultValid = true) ∧
    ((∃ t, runEnvOp .readOut s = .next t) ↔ s.resultValid = true ∧ s.status = .ok) ∧
    ((∃ t, runEnvOp .readVal s = .next t) ↔ s.resultValid = true ∧ s.status = .ok ∧ s.opsel = .unpack) ∧
    ((∃ t, runEnvOp .readOpsel s = .next t) ↔ s.opselHeld = true) ∧
    (∀ t, runEnvOp .readStatus s = .next t → t = s.record (.status s.status)) ∧
    (∀ t, runEnvOp .readOut s = .next t → t = s.record (.out s.out)) ∧
    (∀ t, runEnvOp .readVal s = .next t → t = s.record (.vals s.vals)) ∧
    (∀ t, runEnvOp .readOpsel s = .next t → t = s.record (.opsel s.opsel))

/-! ### The Frame Codec -/

/-- R100: `ENC` completes for every payload that is written and fits, with the frame in `OUT` and `STATUS = OK`. -/
def Obligations.EncodeMakesTheFrame : Prop :=
  ∀ s : State, s.ready .enc →
    ∃ t, exec .enc s = .next t ∧ CompletedOk .enc t ∧ t.out = cobsEncode s.inp

/-- 40_cobs_encode section 2 (R103, R104): one payload byte of a running `ENC`: a zero closes the run and is not copied, another
byte is appended and counted, and the one that brings the distance to `0xFF` closes the run with that code. That the other
operations' registers keep their values is the model's choice (notes/assumptions/21.md, unsafe: U10 gives them any value). -/
def Obligations.EncodeStepsThroughThePayload : Prop :=
  ∀ (s : State) (b : Byte), s.runsUndisturbed .enc → s.inp[s.eIpos]? = some b → s.ePatch < s.out.length →
    ∃ t, step s = .next t ∧ t.eIpos = s.eIpos + 1 ∧ SameControl s t ∧ SameOperands s t ∧ SameSurroundings s t ∧
      SameOtherRegs .enc s t ∧ t.vals = s.vals ∧ t.outHeld = s.outHeld ∧ t.valsHeld = s.valsHeld ∧
      (b = 0x00 →
        t.out = s.out.set s.ePatch s.eDist ++ [0x00] ∧ t.ePatch = s.out.length ∧ t.eDist = 1) ∧
      (b ≠ 0x00 → s.eDist + 1 ≠ 0xFF →
        t.out = s.out ++ [b] ∧ t.ePatch = s.ePatch ∧ t.eDist = s.eDist + 1) ∧
      (b ≠ 0x00 → s.eDist + 1 = 0xFF →
        t.out = (s.out ++ [b]).set s.ePatch 0xFF ++ [0x00] ∧ t.ePatch = s.out.length + 1 ∧ t.eDist = 1)

/-- 40_cobs_encode section 3 (R106) and 30_encoding section 2 (R71): the frame has at least two bytes, ends with the only `0x00`
in it, and parses as runs by the grammar. -/
def Obligations.EncodedFramesMeetTheGrammar : Prop :=
  ∀ s t : State, exec .enc s = .next t →
    2 ≤ t.out.length ∧ t.out.getLast? = some 0x00 ∧ (∀ b ∈ t.out.dropLast, b ≠ 0x00) ∧ isFrame t.out = true

/-- 40_cobs_encode section 3 (R107): the exact length of a frame, and the bounds that follow. -/
def Obligations.EncodedLengthIsExact : Prop :=
  ∀ s t : State, exec .enc s = .next t →
    t.out.length = s.inp.length + 2 + ((zeroFreeSegments s.inp).map fun seg => seg.length / 254).sum ∧
    (zeroFreeSegments s.inp).length = zeroCount s.inp + 1 ∧
    s.inp.length = zeroCount s.inp + ((zeroFreeSegments s.inp).map List.length).sum ∧
    s.inp.length + 2 ≤ t.out.length ∧ t.out.length ≤ s.inp.length + 2 + s.inp.length / 254

/-- R110: for every payload, `DEC(ENC(P)) = P`: encode, copy the frame into `IN`, decode. For both readings of the final boundary.
-/
def Obligations.DecodeInvertsEncode : Prop :=
  ∀ s : State, s.ready .enc →
    ∃ t u v, exec .enc s = .next t ∧ t.outToIn [] = .next u ∧ exec .dec u = .next v ∧ CompletedOk .dec v ∧
      v.out = s.inp

/-- 40_cobs_encode section 3 (R111): equal frames come from equal payloads. -/
def Obligations.EncodeIsInjective : Prop :=
  ∀ s s' t t' : State, exec .enc s = .next t → exec .enc s' = .next t' → t.out = t'.out → s.inp = s'.inp

/-- 30_encoding section 2 (R75): a stream of frames is split unambiguously on the sentinel: behind any frame, the transport finds
exactly that frame. -/
def Obligations.FramesSplitOnTheSentinel : Prop :=
  ∀ (s t : State) (rest : List Byte), exec .enc s = .next t → takeFrame (t.out ++ rest) = some (t.out, rest)

/-- 41_cobs_decode section 1 (R120): `DEC` completes with `STATUS = OK` for every input that is written and fits, with in `OUT` what
reading the runs in order gives, to the end of the input. At the parameter's value `atMostOneUnread` this is R120 with R125's final
boundary; `OUT` at the value `nextAbsentOrZero` is the other reading (U1, D7), a parameter by the model's choice,
notes/assumptions/7.md. -/
def Obligations.DecodeReadsTheRuns : Prop :=
  ∀ s : State, s.ready .dec →
    ∃ t, exec .dec s = .next t ∧ CompletedOk .dec t ∧ t.out = cobsDecode s.params.boundary s.inp

/-- R131: the empty input decodes to the empty payload. -/
def Obligations.DecodeOfNothingIsNothing : Prop :=
  ∀ s : State, s.ready .dec → s.inp = [] → ∃ t, exec .dec s = .next t ∧ t.out = [] ∧ t.status = .ok

/-- 41_cobs_decode section 3 (R133): the bound on the output for every input, and the exact length for a well-formed frame. -/
def Obligations.DecodedLengthIsBounded : Prop :=
  (∀ s t : State, exec .dec s = .next t → t.out.length ≤ max (s.inp.length - 1) 0) ∧
  (∀ (s t : State) (p : List Byte), exec .dec s = .next t → s.inp = cobsEncode p →
    t.out.length + 2 + forcedRuns 0 s.inp = s.inp.length)

/-- 41_cobs_decode section 2 (R122 to R126): the rows `CODE.ZERO` and `CODE.RUN` of a running `DEC`: the code is consumed, `n - 1`
bytes or the fewer that exist are copied, and a zero follows unless the decoder is at the final boundary, in either reading. The
two readings are the model's parameter (notes/assumptions/7.md), a row run as a step is its choice (notes/assumptions/10.md). That
the other operations' registers keep their values is the model's choice (notes/assumptions/21.md, unsafe: U10 gives them any
value). -/
def Obligations.OrdinaryRunIsCopiedThenZero : Prop :=
  ∀ (s : State) (n : Byte) (i : Instr), s.running .dec = true → s.inp[s.dIpos]? = some n →
    (n = 0x00 ∧ i = .codeZero ∨ n ≠ 0x00 ∧ n ≠ 0xFF ∧ i = .codeRun n) →
    ∃ t, exec i s = .next t ∧ t.dN = n ∧ t.dLeft = 0 ∧
      t.dIpos = s.dIpos + 1 + min (n.toNat - 1) (s.inp.length - (s.dIpos + 1)) ∧
      (t.atFinalBoundary = true → t.out = s.out ++ (s.inp.drop (s.dIpos + 1)).take (n.toNat - 1)) ∧
      (t.atFinalBoundary = false →
        t.out = s.out ++ (s.inp.drop (s.dIpos + 1)).take (n.toNat - 1) ++ [0x00]) ∧
      (s.params.boundary = .atMostOneUnread → (t.atFinalBoundary = true ↔ t.inp.length - t.dIpos ≤ 1)) ∧
      (s.params.boundary = .nextAbsentOrZero →
        (t.atFinalBoundary = true ↔ t.inp[t.dIpos]? = none ∨ t.inp[t.dIpos]? = some 0x00)) ∧
      SameControl s t ∧ SameOperands s t ∧ SameSurroundings s t ∧ SameOtherRegs .dec s t ∧ t.vals = s.vals ∧
      t.outHeld = s.outHeld ∧ t.valsHeld = s.valsHeld

/-- 41_cobs_decode section 2 (R127): `CODE.FORCED`: up to 254 bytes are copied, and no zero is ever appended after them. A row run
as a step is the model's choice (notes/assumptions/10.md). That the other operations' registers keep their values is the model's
choice (notes/assumptions/21.md, unsafe: U10 gives them any value). -/
def Obligations.ForcedRunImpliesNoZero : Prop :=
  ∀ s : State, s.running .dec = true → s.inp[s.dIpos]? = some 0xFF →
    ∃ t, exec .codeForced s = .next t ∧ t.out = s.out ++ (s.inp.drop (s.dIpos + 1)).take 254 ∧ t.dN = 0xFF ∧
      t.dLeft = 0 ∧ t.dIpos = s.dIpos + 1 + min 254 (s.inp.length - (s.dIpos + 1)) ∧
      SameControl s t ∧ SameOperands s t ∧ SameSurroundings s t ∧ SameOtherRegs .dec s t ∧ t.vals = s.vals ∧
      t.outHeld = s.outHeld ∧ t.valsHeld = s.valsHeld

/-! ### The Value Packer -/

/-- R140: `PACK` completes with the concatenation of the items' serialisations, or, when an item is `Unsupported`, with
`UnsupportedArgumentType` and no payload. -/
def Obligations.PackConcatenatesOrFails : Prop :=
  ∀ s : State, s.ready .pack →
    ∃ t, exec .pack s = .next t ∧
      (∀ p, packBytes s.items = some p → CompletedOk .pack t ∧ t.out = p) ∧
      (packBytes s.items = none → EndedWith .unsupportedArgumentType .pack t) ∧
      (packBytes s.items = none ↔ Item.unsupported ∈ s.items)

/-- R145: the payload of two lists joined is their payloads joined. -/
def Obligations.PackRespectsAppend : Prop :=
  ∀ (s s1 s2 t t1 t2 : State), exec .pack s = .next t → exec .pack s1 = .next t1 → exec .pack s2 = .next t2 →
    s.items = s1.items ++ s2.items → t1.status = .ok → t2.status = .ok →
    t.status = .ok ∧ t.out = t1.out ++ t2.out

/-- 42_pack section 3 (R146): the length of a packed payload. -/
def Obligations.PackedLengthIsExact : Prop :=
  ∀ s t : State, exec .pack s = .next t → t.status = .ok →
    t.out.length = (s.items.map fun it => match it with
      | .int32 _ => 4
      | .float32 _ => 4
      | .rawBytes bs => bs.length
      | .unsupported => 0).sum

/-- R50: four bytes, least significant first, for Int32 and Float32 alike, in `PACK` and in `UNPACK`. -/
def Obligations.ValuesAreLittleEndian : Prop :=
  (∀ (s : State) (w : Word), s.ready .pack → s.items = [.int32 w] ∨ s.items = [.float32 w] →
    ∃ t, exec .pack s = .next t ∧
      t.out = [w.extractLsb' 0 8, w.extractLsb' 8 8, w.extractLsb' 16 8, w.extractLsb' 24 8]) ∧
  (∀ (s : State) (b0 b1 b2 b3 : Byte) (g : Tag), s.ready .unpack → s.inp = [b0, b1, b2, b3] → s.pat = [g] →
    ∃ t, exec .unpack s = .next t ∧ t.vals = [valueOf g (b3 ++ b2 ++ b1 ++ b0)])

/-- 42_pack section 2 (R141, R142, D10): the numeric items of a running `PACK` append the four bytes of their word. An item row
run as a step is the model's choice (notes/assumptions/10.md). That the other operations' registers keep their values is the
model's choice (notes/assumptions/21.md, unsafe: U10 gives them any value). -/
def Obligations.NumericItemIsAppended : Prop :=
  ∀ (s : State) (w : Word) (i : Instr), s.running .pack = true →
    (s.items[s.pIdx]? = some (.int32 w) ∧ i = .itemInt32 w ∨ s.items[s.pIdx]? = some (.float32 w) ∧ i = .itemFloat32 w) →
    ∃ t, exec i s = .next t ∧ t.out = s.out ++ le32 w ∧ t.pIdx = s.pIdx + 1 ∧
      SameControl s t ∧ SameOperands s t ∧ SameSurroundings s t ∧ SameOtherRegs .pack s t ∧ t.vals = s.vals ∧
      t.outHeld = s.outHeld ∧ t.valsHeld = s.valsHeld

/-- 42_pack section 2 (R143): a raw item of a running `PACK` appends its bytes in order, unchanged, with nothing added. An item
row run as a step is the model's choice (notes/assumptions/10.md). That the other operations' registers keep their values is the
model's choice (notes/assumptions/21.md, unsafe: U10 gives them any value). -/
def Obligations.RawItemIsAppendedUnchanged : Prop :=
  ∀ (s : State) (bs : List Byte), s.running .pack = true → s.items[s.pIdx]? = some (.rawBytes bs) →
    ∃ t, exec (.itemRawBytes bs) s = .next t ∧ t.out = s.out ++ bs ∧ t.pIdx = s.pIdx + 1 ∧
      SameControl s t ∧ SameOperands s t ∧ SameSurroundings s t ∧ SameOtherRegs .pack s t ∧ t.vals = s.vals ∧
      t.outHeld = s.outHeld ∧ t.valsHeld = s.valsHeld

/-- 42_pack section 2 and 60_exceptions section 2 (R144, R212, R214): an `Unsupported` item of a running `PACK` ends it with
`UnsupportedArgumentType`, and so does that status row; no payload is left, the operands are unchanged. That the status row is the
completion is the model's reading (notes/assumptions/9.md), an item row run as a step its choice (notes/assumptions/10.md). That
the other operations' registers keep their values is the model's choice (notes/assumptions/21.md, unsafe: U10 gives them any
value). -/
def Obligations.UnsupportedItemRaises : Prop :=
  ∀ (s : State) (i : Instr), s.running .pack = true → s.items[s.pIdx]? = some .unsupported →
    i = .itemUnsupported ∨ i = .statusUnsupportedArgumentType →
    ∃ t, exec i s = .next t ∧ EndedWith .unsupportedArgumentType .pack t ∧ SameOperands s t ∧
      SameSurroundings s t ∧ SameOtherRegs .pack s t

/-- R160: `UNPACK` completes with one value per pattern element and the remainder in `OUT`, or with `TruncatedPayload` and no
data. -/
def Obligations.UnpackReadsThePattern : Prop :=
  ∀ s : State, s.ready .unpack →
    ∃ t, exec .unpack s = .next t ∧
      (∀ vs rest, unpackBytes s.pat s.inp = some (vs, rest) →
        CompletedOk .unpack t ∧ t.vals = vs ∧ t.out = rest) ∧
      (unpackBytes s.pat s.inp = none → EndedWith .truncatedPayload .unpack t)

/-- R163: the remainder is the bytes of `IN` from index `4 * len(PAT)`, unchanged and in order, and no error; empty when the pattern
fits exactly. -/
def Obligations.RemainderIsReturned : Prop :=
  ∀ s : State, s.ready .unpack → 4 * s.pat.length ≤ s.inp.length →
    ∃ t, exec .unpack s = .next t ∧ t.status = .ok ∧ t.outHeld = true ∧ t.out = s.inp.drop (4 * s.pat.length) ∧
      (s.pat.length * 4 = s.inp.length → t.out = [])

/-- 43_unpack section 2 (R164, D11): `UNPACK` fails if and only if the pattern needs more bytes than there are, and then delivers
nothing. -/
def Obligations.TruncatedExactlyWhenTooShort : Prop :=
  ∀ s : State, s.ready .unpack →
    ∃ t, exec .unpack s = .next t ∧ (t.status = .truncatedPayload ↔ s.inp.length < 4 * s.pat.length) ∧
      (s.inp.length < 4 * s.pat.length → t.readOut = .error .noValueHeld ∧ t.readVal = .error .noValueHeld) ∧
      (4 * s.pat.length ≤ s.inp.length → t.status = .ok)

/-- 43_unpack section 3 (R165): with an empty pattern the whole payload is the remainder. -/
def Obligations.EmptyPatternReturnsThePayload : Prop :=
  ∀ s : State, s.ready .unpack → s.pat = [] →
    ∃ t, exec .unpack s = .next t ∧ t.status = .ok ∧ t.vals = [] ∧ t.out = s.inp

/-- 43_unpack section 3 (R167): nothing of the payload is lost or reordered: packing the values again and adding the remainder gives
the payload. -/
def Obligations.PackingTheValuesGivesThePayload : Prop :=
  ∀ s t : State, exec .unpack s = .next t → t.status = .ok →
    t.vals.length = s.pat.length ∧ t.out.length = s.inp.length - 4 * s.pat.length ∧
      ∃ p, packBytes (t.vals.map Value.toItem) = some p ∧ p ++ t.out = s.inp

/-- 42_pack section 3 (R151): unpacking what was packed from numeric items, under their own tags, gives the same words and no
remainder. -/
def Obligations.UnpackInvertsPack : Prop :=
  ∀ (s : State) (vs : List Value) (tags : List Tag), s.ready .pack → s.items.map Item.value = vs.map some →
    s.items.map Item.tag = tags.map some →
    ∃ t u v w, exec .pack s = .next t ∧ t.outToIn [] = .next u ∧ u.writePat tags = .next v ∧ exec .unpack v = .next w ∧
      CompletedOk .unpack w ∧ w.vals = vs ∧ w.out = []

/-- 43_unpack section 2 (R161): an `Int` element of a running `UNPACK` with four bytes left gives the word they are, read as a
signed integer of the Int32 range. A pattern row run as a step is the model's choice (notes/assumptions/10.md). That the other
operations' registers keep their values is the model's choice (notes/assumptions/21.md, unsafe: U10 gives them any value). -/
def Obligations.IntElementReadsFourBytes : Prop :=
  ∀ (s : State) (b0 b1 b2 b3 : Byte) (rest : List Byte), s.running .unpack = true → s.pat[s.uIdx]? = some .int →
    s.inp.drop s.uBpos = b0 :: b1 :: b2 :: b3 :: rest →
    ∃ t, exec .patInt s = .next t ∧ t.vals = s.vals ++ [.int32 (wordLe b0 b1 b2 b3)] ∧
      -2 ^ 31 ≤ sint32 (wordLe b0 b1 b2 b3) ∧ sint32 (wordLe b0 b1 b2 b3) ≤ 2 ^ 31 - 1 ∧
      t.uBpos = s.uBpos + 4 ∧ t.uIdx = s.uIdx + 1 ∧
      SameControl s t ∧ SameOperands s t ∧ SameSurroundings s t ∧ SameOtherRegs .unpack s t ∧ t.out = s.out ∧
      t.outHeld = s.outHeld ∧ t.valsHeld = s.valsHeld

/-- 43_unpack section 2 (R162, D10): a `Float` element of a running `UNPACK` with four bytes left gives the word they are,
unchanged. A pattern row run as a step is the model's choice (notes/assumptions/10.md). That the other operations' registers keep
their values is the model's choice (notes/assumptions/21.md, unsafe: U10 gives them any value). -/
def Obligations.FloatElementReadsFourBytes : Prop :=
  ∀ (s : State) (b0 b1 b2 b3 : Byte) (rest : List Byte), s.running .unpack = true → s.pat[s.uIdx]? = some .float →
    s.inp.drop s.uBpos = b0 :: b1 :: b2 :: b3 :: rest →
    ∃ t, exec .patFloat s = .next t ∧ t.vals = s.vals ++ [.float32 (wordLe b0 b1 b2 b3)] ∧
      t.uBpos = s.uBpos + 4 ∧ t.uIdx = s.uIdx + 1 ∧
      SameControl s t ∧ SameOperands s t ∧ SameSurroundings s t ∧ SameOtherRegs .unpack s t ∧ t.out = s.out ∧
      t.outHeld = s.outHeld ∧ t.valsHeld = s.valsHeld

/-- 43_unpack section 2 and 60_exceptions section 2 (R164, R212, R214): an element of a running `UNPACK` with fewer than four
bytes left ends it with `TruncatedPayload`, and so does that status row; neither values nor remainder are left, the operands are
unchanged. That the status row is the completion is the model's reading (notes/assumptions/9.md), a pattern row run as a step its
choice (notes/assumptions/10.md). That the other operations' registers keep their values is the model's choice
(notes/assumptions/21.md, unsafe: U10 gives them any value). -/
def Obligations.ShortElementRaises : Prop :=
  ∀ (s : State) (g : Tag) (i : Instr), s.running .unpack = true → s.pat[s.uIdx]? = some g →
    s.inp.length - s.uBpos < 4 →
    (g = .int ∧ i = .patInt ∨ g = .float ∧ i = .patFloat ∨ i = .statusTruncatedPayload) →
    ∃ t, exec i s = .next t ∧ EndedWith .truncatedPayload .unpack t ∧ SameOperands s t ∧ SameSurroundings s t ∧
      SameOtherRegs .unpack s t

/-! ### Completion -/

/-- The completion `STATUS.OK` (R105, R128, lines E10 to E12, D9, P9, U9 U10; notes/assumptions/9.md says that the row is read
so): an operation whose loop is at its end completes with its result. That the other operations' registers keep their values is
the model's choice (notes/assumptions/21.md, unsafe: U10 gives them any value). -/
def Obligations.CompletionDeliversTheResult : Prop :=
  ∀ s : State, s.phase = .busy → s.loopDone = true → (s.opsel = .enc → s.ePatch < s.out.length) →
    ∃ t, exec .statusOk s = .next t ∧ CompletedOk s.opsel t ∧
      (s.opsel = .enc → t.out = s.out.set s.ePatch s.eDist ++ [0x00]) ∧
      (s.opsel = .dec → t.out = s.out) ∧
      (s.opsel = .pack → t.out = s.out) ∧
      (s.opsel = .unpack → t.out = s.inp.drop s.uBpos) ∧
      t.vals = s.vals ∧ SameOperands s t ∧ SameSurroundings s t ∧ SameOtherRegs s.opsel s t

/-- 10_state section 2 (R25 to R28, derived by the spec) and R128: when the loop of an operation is at its end, its cursor is at
the end of the operand, not beyond it. -/
def Obligations.CursorsEndAtTheOperandsEnd : Prop :=
  ∀ s : State, s.Inv → s.phase = .busy → s.loopDone = true →
    (s.opsel = .enc → s.eIpos = s.inp.length) ∧ (s.opsel = .dec → s.dIpos = s.inp.length) ∧
      (s.opsel = .pack → s.pIdx = s.items.length) ∧
      (s.opsel = .unpack → s.uIdx = s.pat.length ∧ s.uBpos = 4 * s.pat.length)

/-- R32: the status of each operation: `ENC` and `DEC` always complete with `OK`, only `PACK` ends with `UnsupportedArgumentType`,
only `UNPACK` with `TruncatedPayload`. -/
def Obligations.StatusIsTheOperationsOwn : Prop :=
  ∀ (s t : State) (op : Op), exec (Op.instr op) s = .next t →
    t.phase = .idle ∧ t.resultValid = true ∧ t.opsel = op ∧ t.opselHeld = true ∧ (op = .enc ∨ op = .dec → t.status = .ok) ∧
      (t.status = .unsupportedArgumentType → op = .pack) ∧ (t.status = .truncatedPayload → op = .unpack)

/-- 60_exceptions section 2 (R212, R214, D11): an error outcome delivers no data, the environment finds it in `STATUS`, and the
operands are unchanged. -/
def Obligations.ErrorDeliversNoData : Prop :=
  ∀ (s t : State) (op : Op), exec (Op.instr op) s = .next t → t.status ≠ .ok →
    t.readStatus = .ok t.status ∧ t.readOut = .error .noValueHeld ∧ t.readVal = .error .noValueHeld ∧
      SameOperands s t

/-- R20: nothing the block computes depends on any earlier operation: two states with the same parameters and the same operands give
the same result, whatever else they hold, the state of the channel among it (70_reset_and_hazards section 2, R244). -/
def Obligations.ResultDependsOnOperandsOnly : Prop :=
  ∀ (s s' t t' : State) (op : Op), SameUsedOperands op s s' → s'.params = s.params →
    exec (Op.instr op) s = .next t → exec (Op.instr op) s' = .next t' →
    t'.status = t.status ∧ t'.out = t.out ∧ t'.outHeld = t.outHeld ∧ t'.vals = t.vals ∧ t'.valsHeld = t.valsHeld

/-- The frame of the four operations (R55, R212): operands, environment and parameters are unchanged, every byte of `IN` among
them. What the operation's own working registers hold after it is any value (U10, notes/assumptions/21.md), so nothing is said of
them. That the other operations' registers keep their values is the model's choice (notes/assumptions/21.md, unsafe: U10 gives
them any value). -/
def Obligations.OperationsLeaveTheRestUnchanged : Prop :=
  ∀ (s t : State) (op : Op), exec (Op.instr op) s = .next t →
    SameOperands s t ∧ SameSurroundings s t ∧ SameOtherRegs op s t ∧
      (∀ a : Nat, t.inp[a]? = s.inp[a]?)

/-! ### The environment's commands -/

/-- 44_environment_protocol section 4 (R193): `SetMotor` with a speed in its domain sends the frame of `01` and the four bytes of
the speed; no reply is read, `UNPACK` is not run, the channel is unlocked again. That the registers of `DEC` and `UNPACK` keep
their values is the model's choice (notes/assumptions/21.md, unsafe: U10 gives them any value). -/
def Obligations.SetMotorSendsItsFrame : Prop :=
  ∀ (s : State) (w : Word), s.channelReady → -255 ≤ sint32 w → sint32 w ≤ 255 → s.sendFits 1 [.int32 w] (le32 w) →
    ∃ t, exec (.envSetMotor w) s = .next t ∧ t.tx = s.tx ++ cobsEncode (0x01 :: le32 w) ∧
      (0x01 :: le32 w).length = 5 ∧ t.rx = s.rx ∧ t.calls = s.calls ++ [.done] ∧ t.cmds = s.cmds ∧ t.chanOpen = true ∧
      t.chanLocked = false ∧ t.params = s.params ∧ t.readings = s.readings ∧ t.pat = s.pat ∧ t.patHeld = s.patHeld ∧
      SameDecRegs s t ∧ SameUnpackRegs s t

/-- R194: `SetMotor` with a speed outside [-255, 255] fails with `BadCommand` before anything is packed: nothing else changes.
That the check comes before the lock is taken is the model's reading (notes/assumptions/14.md). -/
def Obligations.SetMotorChecksItsDomain : Prop :=
  ∀ (s : State) (w : Word), sint32 w < -255 ∨ 255 < sint32 w →
    ∃ t, exec (.envSetMotor w) s = .next t ∧ t = { s with calls := s.calls ++ [.badCommand [.int32 w]] }

/-- 44_environment_protocol section 4 (R197): `SetPid` sends the frame of `03` and its eight words, 33 bytes, in order; no reply
is read. That the registers of `DEC` and `UNPACK` keep their values is the model's choice (notes/assumptions/21.md, unsafe: U10
gives them any value). -/
def Obligations.SetPidSendsItsFrame : Prop :=
  ∀ (s : State) (kp ki kd zo mino maxo ir im : Word), s.channelReady →
    s.sendFits 3 ([kp, ki, kd, zo, mino, maxo, ir, im].map .float32) ([kp, ki, kd, zo, mino, maxo, ir, im].flatMap le32) →
    ∃ t, exec (.envSetPid kp ki kd zo mino maxo ir im) s = .next t ∧
      t.tx = s.tx ++ cobsEncode (0x03 :: (le32 kp ++ le32 ki ++ le32 kd ++ le32 zo ++ le32 mino ++ le32 maxo ++ le32 ir ++ le32 im)) ∧
      (0x03 :: (le32 kp ++ le32 ki ++ le32 kd ++ le32 zo ++ le32 mino ++ le32 maxo ++ le32 ir ++ le32 im)).length = 33 ∧
      t.rx = s.rx ∧ t.calls = s.calls ++ [.done] ∧ t.cmds = s.cmds ∧ t.chanOpen = true ∧ t.chanLocked = false ∧
      t.params = s.params ∧ t.readings = s.readings ∧ t.pat = s.pat ∧ t.patHeld = s.patHeld ∧ SameDecRegs s t ∧
      SameUnpackRegs s t

/-- 44_environment_protocol section 4 (R196, R198): `RequestEncoder` and `SetPosition` send their frames and wait, with the channel
locked, for a reply of one Int32. That the registers of `DEC` and `UNPACK` keep
their values is the model's choice (notes/assumptions/21.md, unsafe: U10 gives them any value). -/
def Obligations.CommandsWithReplySendAndWait : Prop :=
  ∀ (s : State), s.channelReady →
    (s.sendFits 2 [] [] →
      ∃ t, exec .envRequestEncoder s = .next t ∧ t.tx = s.tx ++ [0x02, 0x02, 0x00] ∧
        t.cmds = .act (.reply [.int]) :: s.cmds ∧ t.chanLocked = true ∧ t.chanOpen = true ∧ t.rx = s.rx ∧
        t.calls = s.calls ∧ t.params = s.params ∧ t.readings = s.readings ∧ t.pat = s.pat ∧ t.patHeld = s.patHeld ∧
        SameDecRegs s t ∧ SameUnpackRegs s t) ∧
    (∀ w : Word, s.sendFits 4 [.int32 w] (le32 w) →
      ∃ t, exec (.envSetPosition w) s = .next t ∧ t.tx = s.tx ++ cobsEncode (0x04 :: le32 w) ∧
        t.cmds = .act (.reply [.int]) :: s.cmds ∧ t.chanLocked = true ∧ t.chanOpen = true ∧ t.rx = s.rx ∧
        t.calls = s.calls ∧ t.params = s.params ∧ t.readings = s.readings ∧ t.pat = s.pat ∧ t.patHeld = s.patHeld ∧
        SameDecRegs s t ∧ SameUnpackRegs s t)

/-- 44_environment_protocol sections 1, 3 and 5 (R183, R189, R199), 30_encoding (R92): the waiting rest of a command with a reply takes
one frame from the transport, decodes and unpacks it, gives the values and the remainder to the caller and releases the channel, or
reports `TruncatedPayload`; the macro `RECVVALS` alone does the same and leaves the lock as it is (the model's choice,
notes/assumptions/28.md). Whatever the channel's state, the rest of a command blocks, with no frame there, or gives the caller one result,
a failed call only on a closed channel (U18, U20; notes/assumptions/18.md, 19.md and 29.md). -/
def Obligations.ReplyIsDecodedAndUnpacked : Prop :=
  (∀ (s : State) (tags : List Tag) (f rest : List Byte), s.phase = .idle → s.chanOpen = true →
    s.closeRequested = false → takeFrame s.rx = some (f, rest) → within s.params.capBytes f.length = true →
    within s.params.capItems tags.length = true →
    (∃ t, runEnvOp (.reply tags) s = .next t ∧ t.rx = rest ∧ t.tx = s.tx ∧ t.cmds = s.cmds ∧ t.params = s.params ∧
      (∀ vs rem, unpackBytes tags (cobsDecode s.params.boundary f) = some (vs, rem) →
        t.calls = s.calls ++ [.values vs rem] ∧ t.chanLocked = false) ∧
      (unpackBytes tags (cobsDecode s.params.boundary f) = none → t.calls = s.calls ++ [.truncatedPayload])) ∧
    (∃ t, runEnvOp (.recvVals tags) s = .next t ∧ t.rx = rest ∧ t.tx = s.tx ∧ t.cmds = s.cmds ∧ t.params = s.params ∧
      t.chanLocked = s.chanLocked ∧
      (∀ vs rem, unpackBytes tags (cobsDecode s.params.boundary f) = some (vs, rem) →
        t.calls = s.calls ++ [.values vs rem]) ∧
      (unpackBytes tags (cobsDecode s.params.boundary f) = none → t.calls = s.calls ++ [.truncatedPayload]))) ∧
  (∀ (s : State) (tags : List Tag), s.phase = .idle → s.params.capBytes = none → s.params.capItems = none →
    ∃ t left, runEnvOp (.reply tags) s = .next t ∧ t.tx = s.tx ∧ t.rx <:+ s.rx ∧
      (left = s.cmds ∨ s.cmds = .act .close :: left) ∧
      (takeFrame s.rx = none ∧ t.cmds = .act (.reply tags) :: left ∧ t.calls = s.calls ∧ t.chanLocked = s.chanLocked ∨
        t.cmds = left ∧ ∃ r, t.calls = s.calls ++ [r] ∧ (r = .transportFailed → t.chanOpen = false)))

/-- 44_environment_protocol section 4 (R198) with R110 and R151: the whole `SetPosition` transaction in two steps: the command
frame goes out, and when the reply is the frame of an Int32 and further bytes, the caller gets that word and those bytes, and the
channel is unlocked. The layout of the reply is the spec's reading C11. -/
def Obligations.SetPositionTransactionEchoes : Prop :=
  ∀ (s : State) (w v : Word) (extra rx' : List Byte) (rest : List EnvAction), ({ s with cmds := rest } : State).channelReady →
    s.params.capBytes = none → s.params.capItems = none →
    s.cmds = .command (0x04 :: le32 w) :: rest → s.rx = cobsEncode (le32 v ++ extra) ++ rx' →
    ∃ t, State.run 2 s = .next t ∧ t.tx = s.tx ++ cobsEncode (0x04 :: le32 w) ∧ t.rx = rx' ∧
      t.calls = s.calls ++ [.values [.int32 v] extra] ∧ t.chanLocked = false ∧ t.cmds = rest

/-- 44_environment_protocol section 3 (R187): a command that finds the channel locked waits: the step changes nothing.
That a waiting command is a step is the model's choice (notes/assumptions/16.md). -/
def Obligations.LockedCommandWaits : Prop :=
  ∀ (s : State) (bs : List Byte) (rest : List EnvAction) (i : Instr), s.cmds = .command bs :: rest → s.phase = .idle →
    s.chanLocked = true → decode .env bs = .ok i →
    (∀ w, i = .envSetMotor w → -255 ≤ sint32 w ∧ sint32 w ≤ 255) → step s = .next s

/-- 44_environment_protocol section 3 (R188) and C10: on a closed channel a command returns at once, without input or output, and
leaves the channel locked; any later command waits for ever. That waiting is a run of steps that stay in the same state is the
model's choice (notes/assumptions/16.md); that the lock is kept, with the return recorded as closedNoOp, is its reading of C10
(notes/assumptions/17.md, unsafe for the second command). -/
def Obligations.ClosedChannelIsANoOpThatKeepsTheLock : Prop :=
  ∀ (s : State) (i : Instr), s.phase = .idle → s.chanOpen = false → s.chanLocked = false →
    s.closeRequested = false →
    (i = .envRequestEncoder ∨ (∃ w, i = .envSetPosition w) ∨ (∃ w, i = .envSetMotor w ∧ -255 ≤ sint32 w ∧ sint32 w ≤ 255) ∨
      (∃ kp ki kd zo mino maxo ir im, i = .envSetPid kp ki kd zo mino maxo ir im)) →
    exec i s = .next { s with chanLocked := true, calls := s.calls ++ [.closedNoOp] } ∧
    (∀ (j : Instr) (bs : List Byte) (rest : List EnvAction) (k : Nat), decode .env bs = .ok j →
      (∀ w, j = .envSetMotor w → -255 ≤ sint32 w ∧ sint32 w ≤ 255) →
      State.run k { s with chanLocked := true, calls := s.calls ++ [.closedNoOp], cmds := .command bs :: rest } =
        .next { s with chanLocked := true, calls := s.calls ++ [.closedNoOp], cmds := .command bs :: rest })

/-- 44_environment_protocol section 3 (R189), 93 U18: a command that finds the channel open and unlocked while a close is
requested: the close falls before the check and the command is the closed no-op; or it falls before the write, which fails with
some front part of the frame written, or succeeds; or it stays requested. That the close falls at one of these points, and what a
call that fails leaves, is the model's choice (notes/assumptions/18.md and 29.md). -/
def Obligations.RequestedCloseMayFallInACommand : Prop :=
  ∀ (s : State) (i : Instr) (payload : List Byte) (rest : List EnvAction), s.phase = .idle → s.chanOpen = true →
    s.chanLocked = false → s.cmds = .act .close :: rest → encode i = (.env, payload) →
    (∀ w, i = .envSetMotor w → -255 ≤ sint32 w ∧ sint32 w ≤ 255) → s.params.capBytes = none → s.params.capItems = none →
    ∃ t, exec i s = .next t ∧ t.rx = s.rx ∧ t.readings = s.readings ∧ t.params = s.params ∧
      ((t.calls = s.calls ++ [.closedNoOp] ∧ t.tx = s.tx ∧ t.chanOpen = false ∧ t.chanLocked = true ∧ t.cmds = rest) ∨
        (t.calls = s.calls ++ [.transportFailed] ∧ (∃ k, t.tx = s.tx ++ (cobsEncode payload).take k) ∧
          t.chanOpen = false ∧ t.cmds = rest) ∨
        (t.tx = s.tx ++ cobsEncode payload ∧
          ∃ left, (left = s.cmds ∧ t.chanOpen = true ∨ left = rest ∧ t.chanOpen = false) ∧
            if i = .envRequestEncoder ∨ ∃ w, i = .envSetPosition w then
              t.cmds = .act (.reply [.int]) :: left ∧ t.calls = s.calls ∧ t.chanLocked = true
            else t.cmds = left ∧ t.calls = s.calls ++ [.done] ∧ t.chanLocked = false))

/-- 44_environment_protocol sections 1 and 3 (R181, R189), 93 U18 and U20: a write to an open channel appends any data; that it never
fails there is the model's choice (notes/assumptions/18.md, unsafe if an open device can fail). On a closed channel a write appends all of
its data, or fails, a front part of it written and the caller told. A read of an open channel with a frame arrived and no close requested
returns that frame. In every state a read takes no more than a front part of the arrived bytes, and it returns some bytes, or fails, on a
closed channel only, or blocks, with no frame there; a requested close may fall before it. Operands, control elements, `OUT` and `VAL[]`
are unchanged. What a call that fails or times out leaves of its bytes, and where a close may fall, is the model's choice
(notes/assumptions/18.md, 19.md and 29.md). -/
def Obligations.TransportCallsReadAndWrite : Prop :=
  (∀ (s : State) (bs : List Byte), s.chanOpen = true →
    runEnvOp (.writeBytes bs) s = .next { s with tx := s.tx ++ bs }) ∧
  (∀ (s : State) (bs : List Byte), ∃ t, runEnvOp (.writeBytes bs) s = .next t ∧ t.rx = s.rx ∧ t.cmds = s.cmds ∧
    t.chanOpen = s.chanOpen ∧ SameOperands s t ∧ SameControl s t ∧ t.out = s.out ∧ t.vals = s.vals ∧
    (t.tx = s.tx ++ bs ∧ t.calls = s.calls ∨
      s.chanOpen = false ∧ t.calls = s.calls ++ [.transportFailed] ∧ ∃ k, t.tx = s.tx ++ bs.take k)) ∧
  (∀ (s : State) (f rest : List Byte), s.chanOpen = true → s.closeRequested = false → takeFrame s.rx = some (f, rest) →
    ∃ t, runEnvOp .readBytes s = .next t ∧ t.readings = s.readings ++ [.received f] ∧ t.rx = rest ∧ t.cmds = s.cmds ∧
      t.calls = s.calls) ∧
  (∀ s : State, ∃ t left, runEnvOp .readBytes s = .next t ∧ t.rx <:+ s.rx ∧ t.tx = s.tx ∧ t.chanLocked = s.chanLocked ∧
    SameOperands s t ∧ SameControl s t ∧ t.out = s.out ∧ t.vals = s.vals ∧
    (left = s.cmds ∧ t.chanOpen = s.chanOpen ∨ s.cmds = .act .close :: left ∧ t.chanOpen = false) ∧
    ((t.calls = s.calls ∧ t.cmds = left ∧ ∃ f, t.readings = s.readings ++ [.received f]) ∨
      (t.chanOpen = false ∧ t.calls = s.calls ++ [.transportFailed] ∧ t.cmds = left ∧ t.readings = s.readings) ∨
      (takeFrame s.rx = none ∧ t.calls = s.calls ∧ t.cmds = .act .readBytes :: left ∧ t.readings = s.readings ∧
        t.rx = s.rx)))

/-! ### The whole machine -/

/-- Decoding and encoding agree in every code space: no bit of an encoding is dropped, and every decoded instruction is
well-formed and is the one its bytes encode. -/
def Obligations.DecodeAndEncodeAgree : Prop :=
  (∀ i : Instr, i.wellFormed = true → decode (encode i).1 (encode i).2 = .ok i) ∧
  (∀ (sp : CodeSpace) (bs : List Byte) (i : Instr), decode sp bs = .ok i →
    i.wellFormed = true ∧ encode i = (sp, bs))

/-- The invariant (R23 to R28, R32, R34, R36, R56, R214) is kept by every step, from every state that meets it. -/
def Obligations.EveryStepKeepsTheInvariant : Prop :=
  ∀ s t : State, s.Inv → step s = .next t → t.Inv

/-- R57 with R24: from a state that meets the invariant no step faults: every access is in range. -/
def Obligations.NoStepFaultsUnderTheInvariant : Prop :=
  ∀ s : State, s.Inv → NoFault (step s)

/-- 41_cobs_decode (R135) and 92 D1: an operation run one element at a time gives the very state that the whole operation gives.
That the model has both is its own choice (notes/assumptions/2.md). -/
def Obligations.SteppedOperationIsTheWholeOperation : Prop :=
  ∀ (s : State) (bits : BitVec 2) (rest : List EnvAction), s.cmds = .act (.beginOp bits) :: rest →
    s.ready (Op.ofBits bits) → ({ s with cmds := rest } : State).waiting →
    ∃ k t, State.run k s = .next t ∧ exec (Op.instr (Op.ofBits bits)) { s with cmds := rest } = .next t

/-- 10_state section 3 (R33): every running operation ends, within as many steps as its operand has elements and one more. -/
def Obligations.EveryOperationEnds : Prop :=
  ∀ s : State, s.Inv → s.phase = .busy → s.waiting →
    ∃ k t, k ≤ s.inp.length + s.items.length + s.pat.length + 1 ∧ State.run k s = .next t ∧ t.phase = .idle

/-- 20_memory sections 3, 4 and 7 (R54, R55, R61): while an operation runs and the environment waits, a step changes no operand and
nothing of the environment. That the other operations' registers keep their values is the
model's choice (notes/assumptions/21.md, unsafe: U10 gives them any value). -/
def Obligations.RunningBlockTouchesOnlyItsOwnState : Prop :=
  ∀ (s t : State) (op : Op), s.runsUndisturbed op → step s = .next t →
    SameOperands s t ∧ SameSurroundings s t ∧ SameOtherRegs op s t ∧ t.opsel = s.opsel

/-- 00_scope section 4 (R8) and 44_environment_protocol section 1 (R181): no step changes a parameter or takes back a byte written
to the transport. That what the environment has read and been given is kept in lists that only grow is the model's own bookkeeping
(notes/assumptions/3.md and 12.md); that no step adds arrived bytes, which only the outside world does, is its reading
(notes/assumptions/19.md). -/
def Obligations.ParametersAndSentBytesStay : Prop :=
  ∀ s t : State, step s = .next t →
    t.params = s.params ∧ s.tx <+: t.tx ∧ s.readings <+: t.readings ∧ s.calls <+: t.calls ∧ t.rx <:+ s.rx
end

