-- ==== Sys2Proof/Laws/Bytes.lean ====
section
/-! SUPPORT. The byte order loses nothing: `le32` and `wordLe` are inverse (spec/20_memory.md rule R50), and so are the words of a
byte sequence and its bytes. -/

namespace Sys2Proof.Machine

@[simp] theorem le32_length (w : Word) : (le32 w).length = 4 := rfl

/-- Byte `k` of a word is its bits `8k + 7 … 8k` (R52). -/
theorem wordLe_getLsbD (b0 b1 b2 b3 : Byte) (i : Nat) :
    (wordLe b0 b1 b2 b3).getLsbD i =
      if i < 8 then b0.getLsbD i else if i < 16 then b1.getLsbD (i - 8)
      else if i < 24 then b2.getLsbD (i - 16) else b3.getLsbD (i - 24) := by
  simp only [wordLe, BitVec.getLsbD_append]
  split_ifs <;> first | omega | congr 1

/-- Reading four bytes as a word and serialising it gives the bytes back. -/
@[simp] theorem le32_wordLe (b0 b1 b2 b3 : Byte) : le32 (wordLe b0 b1 b2 b3) = [b0, b1, b2, b3] := by
  have key : ∀ (k : Nat) (b : Byte), (∀ i < 8, (wordLe b0 b1 b2 b3).getLsbD (k + i) = b.getLsbD i) →
      (wordLe b0 b1 b2 b3).extractLsb' k 8 = b := by
    intro k b h
    apply BitVec.eq_of_getLsbD_eq
    intro i hi
    simp [hi, h i hi]
  unfold le32
  rw [key 0 b0, key 8 b1, key 16 b2, key 24 b3] <;>
  · intro i hi
    rw [wordLe_getLsbD]
    split_ifs <;> first | omega | (congr 1; omega)

/-- Serialising a word and reading the four bytes gives the word back. -/
@[simp] theorem wordLe_le32 (w : Word) :
    wordLe (w.extractLsb' 0 8) (w.extractLsb' 8 8) (w.extractLsb' 16 8) (w.extractLsb' 24 8) = w := by
  apply BitVec.eq_of_getLsbD_eq
  intro i hi
  rw [wordLe_getLsbD]
  simp only [BitVec.getLsbD_extractLsb']
  split_ifs with h0 h1 h2
  · simp [h0]
  · simp [show i - 8 < 8 by omega, show 8 + (i - 8) = i by omega]
  · simp [show i - 16 < 8 by omega, show 16 + (i - 16) = i by omega]
  · simp [show i - 24 < 8 by omega, show 24 + (i - 24) = i by omega]

/-- The words of a word's bytes followed by others. -/
@[simp] theorem wordsLe_le32_append (w : Word) (bs : List Byte) :
    wordsLe (le32 w ++ bs) = (wordsLe bs).map (w :: ·) := by
  have h := wordLe_le32 w
  simp only [le32, List.cons_append, List.nil_append, wordsLe, h]

/-- The words of the bytes of a list of words are those words. -/
theorem wordsLe_flatMap (ws : List Word) : wordsLe (ws.flatMap le32) = some ws := by
  induction ws with
  | nil => rfl
  | cons w ws ih => simp [ih]

/-- Bytes that are words are the bytes of those words. -/
theorem flatMap_of_wordsLe : ∀ (bs : List Byte) (ws : List Word), wordsLe bs = some ws → ws.flatMap le32 = bs
  | [], ws, h => by
    simp only [wordsLe, Option.some.injEq] at h
    subst h
    rfl
  | b0 :: b1 :: b2 :: b3 :: bs, ws, h => by
    simp only [wordsLe, Option.map_eq_some_iff] at h
    obtain ⟨vs, hv, rfl⟩ := h
    simp [flatMap_of_wordsLe bs vs hv]
  | [_], _, h => by simp [wordsLe] at h
  | [_, _], _, h => by simp [wordsLe] at h
  | [_, _, _], _, h => by simp [wordsLe] at h

end Sys2Proof.Machine
end

