-- ==== Sys2Proof/Laws/State.lean ====
section
/-! SUPPORT. One lemma per field per named update of the state, true by unfolding, so that no later proof unfolds a record
update. -/

namespace Sys2Proof.Machine

/-! `State.forget`: the working registers of an operation that has ended. -/

@[simp] theorem State.forget_params (s : State) : (s.forget).params = s.params := rfl
@[simp] theorem State.forget_phase (s : State) : (s.forget).phase = s.phase := rfl
@[simp] theorem State.forget_opsel (s : State) : (s.forget).opsel = s.opsel := rfl
@[simp] theorem State.forget_opselHeld (s : State) : (s.forget).opselHeld = s.opselHeld := rfl
@[simp] theorem State.forget_status (s : State) : (s.forget).status = s.status := rfl
@[simp] theorem State.forget_resultValid (s : State) : (s.forget).resultValid = s.resultValid := rfl
@[simp] theorem State.forget_inp (s : State) : (s.forget).inp = s.inp := rfl
@[simp] theorem State.forget_inpHeld (s : State) : (s.forget).inpHeld = s.inpHeld := rfl
@[simp] theorem State.forget_items (s : State) : (s.forget).items = s.items := rfl
@[simp] theorem State.forget_itemsHeld (s : State) : (s.forget).itemsHeld = s.itemsHeld := rfl
@[simp] theorem State.forget_pat (s : State) : (s.forget).pat = s.pat := rfl
@[simp] theorem State.forget_patHeld (s : State) : (s.forget).patHeld = s.patHeld := rfl
@[simp] theorem State.forget_out (s : State) : (s.forget).out = s.out := rfl
@[simp] theorem State.forget_outHeld (s : State) : (s.forget).outHeld = s.outHeld := rfl
@[simp] theorem State.forget_vals (s : State) : (s.forget).vals = s.vals := rfl
@[simp] theorem State.forget_valsHeld (s : State) : (s.forget).valsHeld = s.valsHeld := rfl
@[simp] theorem State.forget_eIpos (s : State) : (s.forget).eIpos = if s.opsel = .enc then Config.freeIndex s.fresh else s.eIpos := rfl
@[simp] theorem State.forget_eDist (s : State) : (s.forget).eDist = if s.opsel = .enc then Config.freeByte (s.fresh + 1) else s.eDist := rfl
@[simp] theorem State.forget_ePatch (s : State) : (s.forget).ePatch = if s.opsel = .enc then Config.freeIndex (s.fresh + 2) else s.ePatch := rfl
@[simp] theorem State.forget_dIpos (s : State) : (s.forget).dIpos = if s.opsel = .dec then Config.freeIndex s.fresh else s.dIpos := rfl
@[simp] theorem State.forget_dN (s : State) : (s.forget).dN = if s.opsel = .dec then Config.freeByte (s.fresh + 1) else s.dN := rfl
@[simp] theorem State.forget_dLeft (s : State) : (s.forget).dLeft = if s.opsel = .dec then Config.freeIndex (s.fresh + 2) % (Config.maxRunData + 1) else s.dLeft := rfl
@[simp] theorem State.forget_pIdx (s : State) : (s.forget).pIdx = if s.opsel = .pack then Config.freeIndex s.fresh else s.pIdx := rfl
@[simp] theorem State.forget_uIdx (s : State) : (s.forget).uIdx = if s.opsel = .unpack then Config.freeIndex s.fresh else s.uIdx := rfl
@[simp] theorem State.forget_uBpos (s : State) : (s.forget).uBpos = if s.opsel = .unpack then Config.freeIndex (s.fresh + 1) else s.uBpos := rfl
@[simp] theorem State.forget_fresh (s : State) : (s.forget).fresh = s.fresh + 3 := rfl
@[simp] theorem State.forget_cmds (s : State) : (s.forget).cmds = s.cmds := rfl
@[simp] theorem State.forget_readings (s : State) : (s.forget).readings = s.readings := rfl
@[simp] theorem State.forget_calls (s : State) : (s.forget).calls = s.calls := rfl
@[simp] theorem State.forget_chanOpen (s : State) : (s.forget).chanOpen = s.chanOpen := rfl
@[simp] theorem State.forget_chanLocked (s : State) : (s.forget).chanLocked = s.chanLocked := rfl
@[simp] theorem State.forget_tx (s : State) : (s.forget).tx = s.tx := rfl
@[simp] theorem State.forget_rx (s : State) : (s.forget).rx = s.rx := rfl

/-! `State.append`: appending to `OUT`. -/

@[simp] theorem State.append_params (s : State) (bs : List Byte) : (s.append bs).params = s.params := rfl
@[simp] theorem State.append_phase (s : State) (bs : List Byte) : (s.append bs).phase = s.phase := rfl
@[simp] theorem State.append_opsel (s : State) (bs : List Byte) : (s.append bs).opsel = s.opsel := rfl
@[simp] theorem State.append_opselHeld (s : State) (bs : List Byte) : (s.append bs).opselHeld = s.opselHeld := rfl
@[simp] theorem State.append_status (s : State) (bs : List Byte) : (s.append bs).status = s.status := rfl
@[simp] theorem State.append_resultValid (s : State) (bs : List Byte) : (s.append bs).resultValid = s.resultValid := rfl
@[simp] theorem State.append_inp (s : State) (bs : List Byte) : (s.append bs).inp = s.inp := rfl
@[simp] theorem State.append_inpHeld (s : State) (bs : List Byte) : (s.append bs).inpHeld = s.inpHeld := rfl
@[simp] theorem State.append_items (s : State) (bs : List Byte) : (s.append bs).items = s.items := rfl
@[simp] theorem State.append_itemsHeld (s : State) (bs : List Byte) : (s.append bs).itemsHeld = s.itemsHeld := rfl
@[simp] theorem State.append_pat (s : State) (bs : List Byte) : (s.append bs).pat = s.pat := rfl
@[simp] theorem State.append_patHeld (s : State) (bs : List Byte) : (s.append bs).patHeld = s.patHeld := rfl
@[simp] theorem State.append_out (s : State) (bs : List Byte) : (s.append bs).out = s.out ++ bs := rfl
@[simp] theorem State.append_outHeld (s : State) (bs : List Byte) : (s.append bs).outHeld = s.outHeld := rfl
@[simp] theorem State.append_vals (s : State) (bs : List Byte) : (s.append bs).vals = s.vals := rfl
@[simp] theorem State.append_valsHeld (s : State) (bs : List Byte) : (s.append bs).valsHeld = s.valsHeld := rfl
@[simp] theorem State.append_eIpos (s : State) (bs : List Byte) : (s.append bs).eIpos = s.eIpos := rfl
@[simp] theorem State.append_eDist (s : State) (bs : List Byte) : (s.append bs).eDist = s.eDist := rfl
@[simp] theorem State.append_ePatch (s : State) (bs : List Byte) : (s.append bs).ePatch = s.ePatch := rfl
@[simp] theorem State.append_dIpos (s : State) (bs : List Byte) : (s.append bs).dIpos = s.dIpos := rfl
@[simp] theorem State.append_dN (s : State) (bs : List Byte) : (s.append bs).dN = s.dN := rfl
@[simp] theorem State.append_dLeft (s : State) (bs : List Byte) : (s.append bs).dLeft = s.dLeft := rfl
@[simp] theorem State.append_pIdx (s : State) (bs : List Byte) : (s.append bs).pIdx = s.pIdx := rfl
@[simp] theorem State.append_uIdx (s : State) (bs : List Byte) : (s.append bs).uIdx = s.uIdx := rfl
@[simp] theorem State.append_uBpos (s : State) (bs : List Byte) : (s.append bs).uBpos = s.uBpos := rfl
@[simp] theorem State.append_fresh (s : State) (bs : List Byte) : (s.append bs).fresh = s.fresh := rfl
@[simp] theorem State.append_cmds (s : State) (bs : List Byte) : (s.append bs).cmds = s.cmds := rfl
@[simp] theorem State.append_readings (s : State) (bs : List Byte) : (s.append bs).readings = s.readings := rfl
@[simp] theorem State.append_calls (s : State) (bs : List Byte) : (s.append bs).calls = s.calls := rfl
@[simp] theorem State.append_chanOpen (s : State) (bs : List Byte) : (s.append bs).chanOpen = s.chanOpen := rfl
@[simp] theorem State.append_chanLocked (s : State) (bs : List Byte) : (s.append bs).chanLocked = s.chanLocked := rfl
@[simp] theorem State.append_tx (s : State) (bs : List Byte) : (s.append bs).tx = s.tx := rfl
@[simp] theorem State.append_rx (s : State) (bs : List Byte) : (s.append bs).rx = s.rx := rfl

/-! `State.patch`: patching a run length in. -/

@[simp] theorem State.patch_params (s : State) : (s.patch).params = s.params := rfl
@[simp] theorem State.patch_phase (s : State) : (s.patch).phase = s.phase := rfl
@[simp] theorem State.patch_opsel (s : State) : (s.patch).opsel = s.opsel := rfl
@[simp] theorem State.patch_opselHeld (s : State) : (s.patch).opselHeld = s.opselHeld := rfl
@[simp] theorem State.patch_status (s : State) : (s.patch).status = s.status := rfl
@[simp] theorem State.patch_resultValid (s : State) : (s.patch).resultValid = s.resultValid := rfl
@[simp] theorem State.patch_inp (s : State) : (s.patch).inp = s.inp := rfl
@[simp] theorem State.patch_inpHeld (s : State) : (s.patch).inpHeld = s.inpHeld := rfl
@[simp] theorem State.patch_items (s : State) : (s.patch).items = s.items := rfl
@[simp] theorem State.patch_itemsHeld (s : State) : (s.patch).itemsHeld = s.itemsHeld := rfl
@[simp] theorem State.patch_pat (s : State) : (s.patch).pat = s.pat := rfl
@[simp] theorem State.patch_patHeld (s : State) : (s.patch).patHeld = s.patHeld := rfl
@[simp] theorem State.patch_out (s : State) : (s.patch).out = s.out.set s.ePatch s.eDist := rfl
@[simp] theorem State.patch_outHeld (s : State) : (s.patch).outHeld = s.outHeld := rfl
@[simp] theorem State.patch_vals (s : State) : (s.patch).vals = s.vals := rfl
@[simp] theorem State.patch_valsHeld (s : State) : (s.patch).valsHeld = s.valsHeld := rfl
@[simp] theorem State.patch_eIpos (s : State) : (s.patch).eIpos = s.eIpos := rfl
@[simp] theorem State.patch_eDist (s : State) : (s.patch).eDist = s.eDist := rfl
@[simp] theorem State.patch_ePatch (s : State) : (s.patch).ePatch = s.ePatch := rfl
@[simp] theorem State.patch_dIpos (s : State) : (s.patch).dIpos = s.dIpos := rfl
@[simp] theorem State.patch_dN (s : State) : (s.patch).dN = s.dN := rfl
@[simp] theorem State.patch_dLeft (s : State) : (s.patch).dLeft = s.dLeft := rfl
@[simp] theorem State.patch_pIdx (s : State) : (s.patch).pIdx = s.pIdx := rfl
@[simp] theorem State.patch_uIdx (s : State) : (s.patch).uIdx = s.uIdx := rfl
@[simp] theorem State.patch_uBpos (s : State) : (s.patch).uBpos = s.uBpos := rfl
@[simp] theorem State.patch_fresh (s : State) : (s.patch).fresh = s.fresh := rfl
@[simp] theorem State.patch_cmds (s : State) : (s.patch).cmds = s.cmds := rfl
@[simp] theorem State.patch_readings (s : State) : (s.patch).readings = s.readings := rfl
@[simp] theorem State.patch_calls (s : State) : (s.patch).calls = s.calls := rfl
@[simp] theorem State.patch_chanOpen (s : State) : (s.patch).chanOpen = s.chanOpen := rfl
@[simp] theorem State.patch_chanLocked (s : State) : (s.patch).chanLocked = s.chanLocked := rfl
@[simp] theorem State.patch_tx (s : State) : (s.patch).tx = s.tx := rfl
@[simp] theorem State.patch_rx (s : State) : (s.patch).rx = s.rx := rfl

/-! `State.raise`: taking an error outcome. -/

@[simp] theorem State.raise_params (s : State) (e : Status) : (s.raise e).params = s.params := rfl
@[simp] theorem State.raise_phase (s : State) (e : Status) : (s.raise e).phase = .idle := rfl
@[simp] theorem State.raise_opsel (s : State) (e : Status) : (s.raise e).opsel = s.opsel := rfl
@[simp] theorem State.raise_opselHeld (s : State) (e : Status) : (s.raise e).opselHeld = s.opselHeld := rfl
@[simp] theorem State.raise_status (s : State) (e : Status) : (s.raise e).status = e := rfl
@[simp] theorem State.raise_resultValid (s : State) (e : Status) : (s.raise e).resultValid = true := rfl
@[simp] theorem State.raise_inp (s : State) (e : Status) : (s.raise e).inp = s.inp := rfl
@[simp] theorem State.raise_inpHeld (s : State) (e : Status) : (s.raise e).inpHeld = s.inpHeld := rfl
@[simp] theorem State.raise_items (s : State) (e : Status) : (s.raise e).items = s.items := rfl
@[simp] theorem State.raise_itemsHeld (s : State) (e : Status) : (s.raise e).itemsHeld = s.itemsHeld := rfl
@[simp] theorem State.raise_pat (s : State) (e : Status) : (s.raise e).pat = s.pat := rfl
@[simp] theorem State.raise_patHeld (s : State) (e : Status) : (s.raise e).patHeld = s.patHeld := rfl
@[simp] theorem State.raise_out (s : State) (e : Status) : (s.raise e).out = [] := rfl
@[simp] theorem State.raise_outHeld (s : State) (e : Status) : (s.raise e).outHeld = false := rfl
@[simp] theorem State.raise_vals (s : State) (e : Status) : (s.raise e).vals = [] := rfl
@[simp] theorem State.raise_valsHeld (s : State) (e : Status) : (s.raise e).valsHeld = false := rfl
@[simp] theorem State.raise_eIpos (s : State) (e : Status) : (s.raise e).eIpos = if s.opsel = .enc then Config.freeIndex s.fresh else s.eIpos := rfl
@[simp] theorem State.raise_eDist (s : State) (e : Status) : (s.raise e).eDist = if s.opsel = .enc then Config.freeByte (s.fresh + 1) else s.eDist := rfl
@[simp] theorem State.raise_ePatch (s : State) (e : Status) : (s.raise e).ePatch = if s.opsel = .enc then Config.freeIndex (s.fresh + 2) else s.ePatch := rfl
@[simp] theorem State.raise_dIpos (s : State) (e : Status) : (s.raise e).dIpos = if s.opsel = .dec then Config.freeIndex s.fresh else s.dIpos := rfl
@[simp] theorem State.raise_dN (s : State) (e : Status) : (s.raise e).dN = if s.opsel = .dec then Config.freeByte (s.fresh + 1) else s.dN := rfl
@[simp] theorem State.raise_dLeft (s : State) (e : Status) : (s.raise e).dLeft = if s.opsel = .dec then Config.freeIndex (s.fresh + 2) % (Config.maxRunData + 1) else s.dLeft := rfl
@[simp] theorem State.raise_pIdx (s : State) (e : Status) : (s.raise e).pIdx = if s.opsel = .pack then Config.freeIndex s.fresh else s.pIdx := rfl
@[simp] theorem State.raise_uIdx (s : State) (e : Status) : (s.raise e).uIdx = if s.opsel = .unpack then Config.freeIndex s.fresh else s.uIdx := rfl
@[simp] theorem State.raise_uBpos (s : State) (e : Status) : (s.raise e).uBpos = if s.opsel = .unpack then Config.freeIndex (s.fresh + 1) else s.uBpos := rfl
@[simp] theorem State.raise_fresh (s : State) (e : Status) : (s.raise e).fresh = s.fresh + 3 := rfl
@[simp] theorem State.raise_cmds (s : State) (e : Status) : (s.raise e).cmds = s.cmds := rfl
@[simp] theorem State.raise_readings (s : State) (e : Status) : (s.raise e).readings = s.readings := rfl
@[simp] theorem State.raise_calls (s : State) (e : Status) : (s.raise e).calls = s.calls := rfl
@[simp] theorem State.raise_chanOpen (s : State) (e : Status) : (s.raise e).chanOpen = s.chanOpen := rfl
@[simp] theorem State.raise_chanLocked (s : State) (e : Status) : (s.raise e).chanLocked = s.chanLocked := rfl
@[simp] theorem State.raise_tx (s : State) (e : Status) : (s.raise e).tx = s.tx := rfl
@[simp] theorem State.raise_rx (s : State) (e : Status) : (s.raise e).rx = s.rx := rfl

/-! `State.complete`: completing with `OK`. -/

@[simp] theorem State.complete_params (s : State) : (s.complete).params = s.params := rfl
@[simp] theorem State.complete_phase (s : State) : (s.complete).phase = .idle := rfl
@[simp] theorem State.complete_opsel (s : State) : (s.complete).opsel = s.opsel := rfl
@[simp] theorem State.complete_opselHeld (s : State) : (s.complete).opselHeld = s.opselHeld := rfl
@[simp] theorem State.complete_status (s : State) : (s.complete).status = .ok := rfl
@[simp] theorem State.complete_resultValid (s : State) : (s.complete).resultValid = true := rfl
@[simp] theorem State.complete_inp (s : State) : (s.complete).inp = s.inp := rfl
@[simp] theorem State.complete_inpHeld (s : State) : (s.complete).inpHeld = s.inpHeld := rfl
@[simp] theorem State.complete_items (s : State) : (s.complete).items = s.items := rfl
@[simp] theorem State.complete_itemsHeld (s : State) : (s.complete).itemsHeld = s.itemsHeld := rfl
@[simp] theorem State.complete_pat (s : State) : (s.complete).pat = s.pat := rfl
@[simp] theorem State.complete_patHeld (s : State) : (s.complete).patHeld = s.patHeld := rfl
@[simp] theorem State.complete_out (s : State) : (s.complete).out = s.out := rfl
@[simp] theorem State.complete_outHeld (s : State) : (s.complete).outHeld = true := rfl
@[simp] theorem State.complete_vals (s : State) : (s.complete).vals = s.vals := rfl
@[simp] theorem State.complete_valsHeld (s : State) : (s.complete).valsHeld = (s.opsel == .unpack) := rfl
@[simp] theorem State.complete_eIpos (s : State) : (s.complete).eIpos = if s.opsel = .enc then Config.freeIndex s.fresh else s.eIpos := rfl
@[simp] theorem State.complete_eDist (s : State) : (s.complete).eDist = if s.opsel = .enc then Config.freeByte (s.fresh + 1) else s.eDist := rfl
@[simp] theorem State.complete_ePatch (s : State) : (s.complete).ePatch = if s.opsel = .enc then Config.freeIndex (s.fresh + 2) else s.ePatch := rfl
@[simp] theorem State.complete_dIpos (s : State) : (s.complete).dIpos = if s.opsel = .dec then Config.freeIndex s.fresh else s.dIpos := rfl
@[simp] theorem State.complete_dN (s : State) : (s.complete).dN = if s.opsel = .dec then Config.freeByte (s.fresh + 1) else s.dN := rfl
@[simp] theorem State.complete_dLeft (s : State) : (s.complete).dLeft = if s.opsel = .dec then Config.freeIndex (s.fresh + 2) % (Config.maxRunData + 1) else s.dLeft := rfl
@[simp] theorem State.complete_pIdx (s : State) : (s.complete).pIdx = if s.opsel = .pack then Config.freeIndex s.fresh else s.pIdx := rfl
@[simp] theorem State.complete_uIdx (s : State) : (s.complete).uIdx = if s.opsel = .unpack then Config.freeIndex s.fresh else s.uIdx := rfl
@[simp] theorem State.complete_uBpos (s : State) : (s.complete).uBpos = if s.opsel = .unpack then Config.freeIndex (s.fresh + 1) else s.uBpos := rfl
@[simp] theorem State.complete_fresh (s : State) : (s.complete).fresh = s.fresh + 3 := rfl
@[simp] theorem State.complete_cmds (s : State) : (s.complete).cmds = s.cmds := rfl
@[simp] theorem State.complete_readings (s : State) : (s.complete).readings = s.readings := rfl
@[simp] theorem State.complete_calls (s : State) : (s.complete).calls = s.calls := rfl
@[simp] theorem State.complete_chanOpen (s : State) : (s.complete).chanOpen = s.chanOpen := rfl
@[simp] theorem State.complete_chanLocked (s : State) : (s.complete).chanLocked = s.chanLocked := rfl
@[simp] theorem State.complete_tx (s : State) : (s.complete).tx = s.tx := rfl
@[simp] theorem State.complete_rx (s : State) : (s.complete).rx = s.rx := rfl

/-! `State.selected`: what every start does. -/

@[simp] theorem State.selected_params (s : State) (op : Op) : (s.selected op).params = s.params := rfl
@[simp] theorem State.selected_phase (s : State) (op : Op) : (s.selected op).phase = .busy := rfl
@[simp] theorem State.selected_opsel (s : State) (op : Op) : (s.selected op).opsel = op := rfl
@[simp] theorem State.selected_opselHeld (s : State) (op : Op) : (s.selected op).opselHeld = true := rfl
@[simp] theorem State.selected_status (s : State) (op : Op) : (s.selected op).status = s.status := rfl
@[simp] theorem State.selected_resultValid (s : State) (op : Op) : (s.selected op).resultValid = false := rfl
@[simp] theorem State.selected_inp (s : State) (op : Op) : (s.selected op).inp = s.inp := rfl
@[simp] theorem State.selected_inpHeld (s : State) (op : Op) : (s.selected op).inpHeld = s.inpHeld := rfl
@[simp] theorem State.selected_items (s : State) (op : Op) : (s.selected op).items = s.items := rfl
@[simp] theorem State.selected_itemsHeld (s : State) (op : Op) : (s.selected op).itemsHeld = s.itemsHeld := rfl
@[simp] theorem State.selected_pat (s : State) (op : Op) : (s.selected op).pat = s.pat := rfl
@[simp] theorem State.selected_patHeld (s : State) (op : Op) : (s.selected op).patHeld = s.patHeld := rfl
@[simp] theorem State.selected_out (s : State) (op : Op) : (s.selected op).out = [] := rfl
@[simp] theorem State.selected_outHeld (s : State) (op : Op) : (s.selected op).outHeld = false := rfl
@[simp] theorem State.selected_vals (s : State) (op : Op) : (s.selected op).vals = [] := rfl
@[simp] theorem State.selected_valsHeld (s : State) (op : Op) : (s.selected op).valsHeld = false := rfl
@[simp] theorem State.selected_eIpos (s : State) (op : Op) : (s.selected op).eIpos = s.eIpos := rfl
@[simp] theorem State.selected_eDist (s : State) (op : Op) : (s.selected op).eDist = s.eDist := rfl
@[simp] theorem State.selected_ePatch (s : State) (op : Op) : (s.selected op).ePatch = s.ePatch := rfl
@[simp] theorem State.selected_dIpos (s : State) (op : Op) : (s.selected op).dIpos = s.dIpos := rfl
@[simp] theorem State.selected_dN (s : State) (op : Op) : (s.selected op).dN = s.dN := rfl
@[simp] theorem State.selected_dLeft (s : State) (op : Op) : (s.selected op).dLeft = s.dLeft := rfl
@[simp] theorem State.selected_pIdx (s : State) (op : Op) : (s.selected op).pIdx = s.pIdx := rfl
@[simp] theorem State.selected_uIdx (s : State) (op : Op) : (s.selected op).uIdx = s.uIdx := rfl
@[simp] theorem State.selected_uBpos (s : State) (op : Op) : (s.selected op).uBpos = s.uBpos := rfl
@[simp] theorem State.selected_fresh (s : State) (op : Op) : (s.selected op).fresh = s.fresh := rfl
@[simp] theorem State.selected_cmds (s : State) (op : Op) : (s.selected op).cmds = s.cmds := rfl
@[simp] theorem State.selected_readings (s : State) (op : Op) : (s.selected op).readings = s.readings := rfl
@[simp] theorem State.selected_calls (s : State) (op : Op) : (s.selected op).calls = s.calls := rfl
@[simp] theorem State.selected_chanOpen (s : State) (op : Op) : (s.selected op).chanOpen = s.chanOpen := rfl
@[simp] theorem State.selected_chanLocked (s : State) (op : Op) : (s.selected op).chanLocked = s.chanLocked := rfl
@[simp] theorem State.selected_tx (s : State) (op : Op) : (s.selected op).tx = s.tx := rfl
@[simp] theorem State.selected_rx (s : State) (op : Op) : (s.selected op).rx = s.rx := rfl

/-! `State.push`: a pending action. -/

@[simp] theorem State.push_params (s : State) (a : EnvAction) : (s.push a).params = s.params := rfl
@[simp] theorem State.push_phase (s : State) (a : EnvAction) : (s.push a).phase = s.phase := rfl
@[simp] theorem State.push_opsel (s : State) (a : EnvAction) : (s.push a).opsel = s.opsel := rfl
@[simp] theorem State.push_opselHeld (s : State) (a : EnvAction) : (s.push a).opselHeld = s.opselHeld := rfl
@[simp] theorem State.push_status (s : State) (a : EnvAction) : (s.push a).status = s.status := rfl
@[simp] theorem State.push_resultValid (s : State) (a : EnvAction) : (s.push a).resultValid = s.resultValid := rfl
@[simp] theorem State.push_inp (s : State) (a : EnvAction) : (s.push a).inp = s.inp := rfl
@[simp] theorem State.push_inpHeld (s : State) (a : EnvAction) : (s.push a).inpHeld = s.inpHeld := rfl
@[simp] theorem State.push_items (s : State) (a : EnvAction) : (s.push a).items = s.items := rfl
@[simp] theorem State.push_itemsHeld (s : State) (a : EnvAction) : (s.push a).itemsHeld = s.itemsHeld := rfl
@[simp] theorem State.push_pat (s : State) (a : EnvAction) : (s.push a).pat = s.pat := rfl
@[simp] theorem State.push_patHeld (s : State) (a : EnvAction) : (s.push a).patHeld = s.patHeld := rfl
@[simp] theorem State.push_out (s : State) (a : EnvAction) : (s.push a).out = s.out := rfl
@[simp] theorem State.push_outHeld (s : State) (a : EnvAction) : (s.push a).outHeld = s.outHeld := rfl
@[simp] theorem State.push_vals (s : State) (a : EnvAction) : (s.push a).vals = s.vals := rfl
@[simp] theorem State.push_valsHeld (s : State) (a : EnvAction) : (s.push a).valsHeld = s.valsHeld := rfl
@[simp] theorem State.push_eIpos (s : State) (a : EnvAction) : (s.push a).eIpos = s.eIpos := rfl
@[simp] theorem State.push_eDist (s : State) (a : EnvAction) : (s.push a).eDist = s.eDist := rfl
@[simp] theorem State.push_ePatch (s : State) (a : EnvAction) : (s.push a).ePatch = s.ePatch := rfl
@[simp] theorem State.push_dIpos (s : State) (a : EnvAction) : (s.push a).dIpos = s.dIpos := rfl
@[simp] theorem State.push_dN (s : State) (a : EnvAction) : (s.push a).dN = s.dN := rfl
@[simp] theorem State.push_dLeft (s : State) (a : EnvAction) : (s.push a).dLeft = s.dLeft := rfl
@[simp] theorem State.push_pIdx (s : State) (a : EnvAction) : (s.push a).pIdx = s.pIdx := rfl
@[simp] theorem State.push_uIdx (s : State) (a : EnvAction) : (s.push a).uIdx = s.uIdx := rfl
@[simp] theorem State.push_uBpos (s : State) (a : EnvAction) : (s.push a).uBpos = s.uBpos := rfl
@[simp] theorem State.push_fresh (s : State) (a : EnvAction) : (s.push a).fresh = s.fresh := rfl
@[simp] theorem State.push_cmds (s : State) (a : EnvAction) : (s.push a).cmds = a :: s.cmds := rfl
@[simp] theorem State.push_readings (s : State) (a : EnvAction) : (s.push a).readings = s.readings := rfl
@[simp] theorem State.push_calls (s : State) (a : EnvAction) : (s.push a).calls = s.calls := rfl
@[simp] theorem State.push_chanOpen (s : State) (a : EnvAction) : (s.push a).chanOpen = s.chanOpen := rfl
@[simp] theorem State.push_chanLocked (s : State) (a : EnvAction) : (s.push a).chanLocked = s.chanLocked := rfl
@[simp] theorem State.push_tx (s : State) (a : EnvAction) : (s.push a).tx = s.tx := rfl
@[simp] theorem State.push_rx (s : State) (a : EnvAction) : (s.push a).rx = s.rx := rfl

/-! `State.deliver`: a result to the caller. -/

@[simp] theorem State.deliver_params (s : State) (r : CallResult) : (s.deliver r).params = s.params := rfl
@[simp] theorem State.deliver_phase (s : State) (r : CallResult) : (s.deliver r).phase = s.phase := rfl
@[simp] theorem State.deliver_opsel (s : State) (r : CallResult) : (s.deliver r).opsel = s.opsel := rfl
@[simp] theorem State.deliver_opselHeld (s : State) (r : CallResult) : (s.deliver r).opselHeld = s.opselHeld := rfl
@[simp] theorem State.deliver_status (s : State) (r : CallResult) : (s.deliver r).status = s.status := rfl
@[simp] theorem State.deliver_resultValid (s : State) (r : CallResult) : (s.deliver r).resultValid = s.resultValid := rfl
@[simp] theorem State.deliver_inp (s : State) (r : CallResult) : (s.deliver r).inp = s.inp := rfl
@[simp] theorem State.deliver_inpHeld (s : State) (r : CallResult) : (s.deliver r).inpHeld = s.inpHeld := rfl
@[simp] theorem State.deliver_items (s : State) (r : CallResult) : (s.deliver r).items = s.items := rfl
@[simp] theorem State.deliver_itemsHeld (s : State) (r : CallResult) : (s.deliver r).itemsHeld = s.itemsHeld := rfl
@[simp] theorem State.deliver_pat (s : State) (r : CallResult) : (s.deliver r).pat = s.pat := rfl
@[simp] theorem State.deliver_patHeld (s : State) (r : CallResult) : (s.deliver r).patHeld = s.patHeld := rfl
@[simp] theorem State.deliver_out (s : State) (r : CallResult) : (s.deliver r).out = s.out := rfl
@[simp] theorem State.deliver_outHeld (s : State) (r : CallResult) : (s.deliver r).outHeld = s.outHeld := rfl
@[simp] theorem State.deliver_vals (s : State) (r : CallResult) : (s.deliver r).vals = s.vals := rfl
@[simp] theorem State.deliver_valsHeld (s : State) (r : CallResult) : (s.deliver r).valsHeld = s.valsHeld := rfl
@[simp] theorem State.deliver_eIpos (s : State) (r : CallResult) : (s.deliver r).eIpos = s.eIpos := rfl
@[simp] theorem State.deliver_eDist (s : State) (r : CallResult) : (s.deliver r).eDist = s.eDist := rfl
@[simp] theorem State.deliver_ePatch (s : State) (r : CallResult) : (s.deliver r).ePatch = s.ePatch := rfl
@[simp] theorem State.deliver_dIpos (s : State) (r : CallResult) : (s.deliver r).dIpos = s.dIpos := rfl
@[simp] theorem State.deliver_dN (s : State) (r : CallResult) : (s.deliver r).dN = s.dN := rfl
@[simp] theorem State.deliver_dLeft (s : State) (r : CallResult) : (s.deliver r).dLeft = s.dLeft := rfl
@[simp] theorem State.deliver_pIdx (s : State) (r : CallResult) : (s.deliver r).pIdx = s.pIdx := rfl
@[simp] theorem State.deliver_uIdx (s : State) (r : CallResult) : (s.deliver r).uIdx = s.uIdx := rfl
@[simp] theorem State.deliver_uBpos (s : State) (r : CallResult) : (s.deliver r).uBpos = s.uBpos := rfl
@[simp] theorem State.deliver_fresh (s : State) (r : CallResult) : (s.deliver r).fresh = s.fresh := rfl
@[simp] theorem State.deliver_cmds (s : State) (r : CallResult) : (s.deliver r).cmds = s.cmds := rfl
@[simp] theorem State.deliver_readings (s : State) (r : CallResult) : (s.deliver r).readings = s.readings := rfl
@[simp] theorem State.deliver_calls (s : State) (r : CallResult) : (s.deliver r).calls = s.calls ++ [r] := rfl
@[simp] theorem State.deliver_chanOpen (s : State) (r : CallResult) : (s.deliver r).chanOpen = s.chanOpen := rfl
@[simp] theorem State.deliver_chanLocked (s : State) (r : CallResult) : (s.deliver r).chanLocked = s.chanLocked := rfl
@[simp] theorem State.deliver_tx (s : State) (r : CallResult) : (s.deliver r).tx = s.tx := rfl
@[simp] theorem State.deliver_rx (s : State) (r : CallResult) : (s.deliver r).rx = s.rx := rfl

/-! `State.record`: a reading. -/

@[simp] theorem State.record_params (s : State) (r : Reading) : (s.record r).params = s.params := rfl
@[simp] theorem State.record_phase (s : State) (r : Reading) : (s.record r).phase = s.phase := rfl
@[simp] theorem State.record_opsel (s : State) (r : Reading) : (s.record r).opsel = s.opsel := rfl
@[simp] theorem State.record_opselHeld (s : State) (r : Reading) : (s.record r).opselHeld = s.opselHeld := rfl
@[simp] theorem State.record_status (s : State) (r : Reading) : (s.record r).status = s.status := rfl
@[simp] theorem State.record_resultValid (s : State) (r : Reading) : (s.record r).resultValid = s.resultValid := rfl
@[simp] theorem State.record_inp (s : State) (r : Reading) : (s.record r).inp = s.inp := rfl
@[simp] theorem State.record_inpHeld (s : State) (r : Reading) : (s.record r).inpHeld = s.inpHeld := rfl
@[simp] theorem State.record_items (s : State) (r : Reading) : (s.record r).items = s.items := rfl
@[simp] theorem State.record_itemsHeld (s : State) (r : Reading) : (s.record r).itemsHeld = s.itemsHeld := rfl
@[simp] theorem State.record_pat (s : State) (r : Reading) : (s.record r).pat = s.pat := rfl
@[simp] theorem State.record_patHeld (s : State) (r : Reading) : (s.record r).patHeld = s.patHeld := rfl
@[simp] theorem State.record_out (s : State) (r : Reading) : (s.record r).out = s.out := rfl
@[simp] theorem State.record_outHeld (s : State) (r : Reading) : (s.record r).outHeld = s.outHeld := rfl
@[simp] theorem State.record_vals (s : State) (r : Reading) : (s.record r).vals = s.vals := rfl
@[simp] theorem State.record_valsHeld (s : State) (r : Reading) : (s.record r).valsHeld = s.valsHeld := rfl
@[simp] theorem State.record_eIpos (s : State) (r : Reading) : (s.record r).eIpos = s.eIpos := rfl
@[simp] theorem State.record_eDist (s : State) (r : Reading) : (s.record r).eDist = s.eDist := rfl
@[simp] theorem State.record_ePatch (s : State) (r : Reading) : (s.record r).ePatch = s.ePatch := rfl
@[simp] theorem State.record_dIpos (s : State) (r : Reading) : (s.record r).dIpos = s.dIpos := rfl
@[simp] theorem State.record_dN (s : State) (r : Reading) : (s.record r).dN = s.dN := rfl
@[simp] theorem State.record_dLeft (s : State) (r : Reading) : (s.record r).dLeft = s.dLeft := rfl
@[simp] theorem State.record_pIdx (s : State) (r : Reading) : (s.record r).pIdx = s.pIdx := rfl
@[simp] theorem State.record_uIdx (s : State) (r : Reading) : (s.record r).uIdx = s.uIdx := rfl
@[simp] theorem State.record_uBpos (s : State) (r : Reading) : (s.record r).uBpos = s.uBpos := rfl
@[simp] theorem State.record_fresh (s : State) (r : Reading) : (s.record r).fresh = s.fresh := rfl
@[simp] theorem State.record_cmds (s : State) (r : Reading) : (s.record r).cmds = s.cmds := rfl
@[simp] theorem State.record_readings (s : State) (r : Reading) : (s.record r).readings = s.readings ++ [r] := rfl
@[simp] theorem State.record_calls (s : State) (r : Reading) : (s.record r).calls = s.calls := rfl
@[simp] theorem State.record_chanOpen (s : State) (r : Reading) : (s.record r).chanOpen = s.chanOpen := rfl
@[simp] theorem State.record_chanLocked (s : State) (r : Reading) : (s.record r).chanLocked = s.chanLocked := rfl
@[simp] theorem State.record_tx (s : State) (r : Reading) : (s.record r).tx = s.tx := rfl
@[simp] theorem State.record_rx (s : State) (r : Reading) : (s.record r).rx = s.rx := rfl

/-! `State.release`: the end of a transaction. -/

@[simp] theorem State.release_params (s : State) (e : Bool) : (s.release e).params = s.params := rfl
@[simp] theorem State.release_phase (s : State) (e : Bool) : (s.release e).phase = s.phase := rfl
@[simp] theorem State.release_opsel (s : State) (e : Bool) : (s.release e).opsel = s.opsel := rfl
@[simp] theorem State.release_opselHeld (s : State) (e : Bool) : (s.release e).opselHeld = s.opselHeld := rfl
@[simp] theorem State.release_status (s : State) (e : Bool) : (s.release e).status = s.status := rfl
@[simp] theorem State.release_resultValid (s : State) (e : Bool) : (s.release e).resultValid = s.resultValid := rfl
@[simp] theorem State.release_inp (s : State) (e : Bool) : (s.release e).inp = s.inp := rfl
@[simp] theorem State.release_inpHeld (s : State) (e : Bool) : (s.release e).inpHeld = s.inpHeld := rfl
@[simp] theorem State.release_items (s : State) (e : Bool) : (s.release e).items = s.items := rfl
@[simp] theorem State.release_itemsHeld (s : State) (e : Bool) : (s.release e).itemsHeld = s.itemsHeld := rfl
@[simp] theorem State.release_pat (s : State) (e : Bool) : (s.release e).pat = s.pat := rfl
@[simp] theorem State.release_patHeld (s : State) (e : Bool) : (s.release e).patHeld = s.patHeld := rfl
@[simp] theorem State.release_out (s : State) (e : Bool) : (s.release e).out = s.out := rfl
@[simp] theorem State.release_outHeld (s : State) (e : Bool) : (s.release e).outHeld = s.outHeld := rfl
@[simp] theorem State.release_vals (s : State) (e : Bool) : (s.release e).vals = s.vals := rfl
@[simp] theorem State.release_valsHeld (s : State) (e : Bool) : (s.release e).valsHeld = s.valsHeld := rfl
@[simp] theorem State.release_eIpos (s : State) (e : Bool) : (s.release e).eIpos = s.eIpos := rfl
@[simp] theorem State.release_eDist (s : State) (e : Bool) : (s.release e).eDist = s.eDist := rfl
@[simp] theorem State.release_ePatch (s : State) (e : Bool) : (s.release e).ePatch = s.ePatch := rfl
@[simp] theorem State.release_dIpos (s : State) (e : Bool) : (s.release e).dIpos = s.dIpos := rfl
@[simp] theorem State.release_dN (s : State) (e : Bool) : (s.release e).dN = s.dN := rfl
@[simp] theorem State.release_dLeft (s : State) (e : Bool) : (s.release e).dLeft = s.dLeft := rfl
@[simp] theorem State.release_pIdx (s : State) (e : Bool) : (s.release e).pIdx = s.pIdx := rfl
@[simp] theorem State.release_uIdx (s : State) (e : Bool) : (s.release e).uIdx = s.uIdx := rfl
@[simp] theorem State.release_uBpos (s : State) (e : Bool) : (s.release e).uBpos = s.uBpos := rfl
@[simp] theorem State.release_fresh (s : State) (e : Bool) : (s.release e).fresh = if e then s.fresh + 1 else s.fresh := rfl
@[simp] theorem State.release_cmds (s : State) (e : Bool) : (s.release e).cmds = s.cmds := rfl
@[simp] theorem State.release_readings (s : State) (e : Bool) : (s.release e).readings = s.readings := rfl
@[simp] theorem State.release_calls (s : State) (e : Bool) : (s.release e).calls = s.calls := rfl
@[simp] theorem State.release_chanOpen (s : State) (e : Bool) : (s.release e).chanOpen = s.chanOpen := rfl
@[simp] theorem State.release_chanLocked (s : State) (e : Bool) : (s.release e).chanLocked = if e then s.chanLocked && Config.lockHeldAfterError s.fresh else false := rfl
@[simp] theorem State.release_tx (s : State) (e : Bool) : (s.release e).tx = s.tx := rfl
@[simp] theorem State.release_rx (s : State) (e : Bool) : (s.release e).rx = s.rx := rfl

/-! `State.started`: the start of an operation. -/

@[simp] theorem State.started_params (s : State) (op : Op) : (s.started op).params = s.params := by
  cases op <;> rfl
@[simp] theorem State.started_phase (s : State) (op : Op) : (s.started op).phase = .busy := by
  cases op <;> rfl
@[simp] theorem State.started_opsel (s : State) (op : Op) : (s.started op).opsel = op := by
  cases op <;> rfl
@[simp] theorem State.started_opselHeld (s : State) (op : Op) : (s.started op).opselHeld = true := by
  cases op <;> rfl
@[simp] theorem State.started_status (s : State) (op : Op) : (s.started op).status = s.status := by
  cases op <;> rfl
@[simp] theorem State.started_resultValid (s : State) (op : Op) : (s.started op).resultValid = false := by
  cases op <;> rfl
@[simp] theorem State.started_inp (s : State) (op : Op) : (s.started op).inp = s.inp := by
  cases op <;> rfl
@[simp] theorem State.started_inpHeld (s : State) (op : Op) : (s.started op).inpHeld = s.inpHeld := by
  cases op <;> rfl
@[simp] theorem State.started_items (s : State) (op : Op) : (s.started op).items = s.items := by
  cases op <;> rfl
@[simp] theorem State.started_itemsHeld (s : State) (op : Op) : (s.started op).itemsHeld = s.itemsHeld := by
  cases op <;> rfl
@[simp] theorem State.started_pat (s : State) (op : Op) : (s.started op).pat = s.pat := by
  cases op <;> rfl
@[simp] theorem State.started_patHeld (s : State) (op : Op) : (s.started op).patHeld = s.patHeld := by
  cases op <;> rfl
@[simp] theorem State.started_out (s : State) (op : Op) : (s.started op).out = if op = .enc then [Config.placeholder] else [] := by
  cases op <;> rfl
@[simp] theorem State.started_outHeld (s : State) (op : Op) : (s.started op).outHeld = false := by
  cases op <;> rfl
@[simp] theorem State.started_vals (s : State) (op : Op) : (s.started op).vals = [] := by
  cases op <;> rfl
@[simp] theorem State.started_valsHeld (s : State) (op : Op) : (s.started op).valsHeld = false := by
  cases op <;> rfl
@[simp] theorem State.started_eIpos (s : State) (op : Op) : (s.started op).eIpos = if op = .enc then 0 else s.eIpos := by
  cases op <;> rfl
@[simp] theorem State.started_eDist (s : State) (op : Op) : (s.started op).eDist = if op = .enc then Config.distInit else s.eDist := by
  cases op <;> rfl
@[simp] theorem State.started_ePatch (s : State) (op : Op) : (s.started op).ePatch = if op = .enc then 0 else s.ePatch := by
  cases op <;> rfl
@[simp] theorem State.started_dIpos (s : State) (op : Op) : (s.started op).dIpos = if op = .dec then 0 else s.dIpos := by
  cases op <;> rfl
@[simp] theorem State.started_dN (s : State) (op : Op) : (s.started op).dN = s.dN := by
  cases op <;> rfl
@[simp] theorem State.started_dLeft (s : State) (op : Op) : (s.started op).dLeft = s.dLeft := by
  cases op <;> rfl
@[simp] theorem State.started_pIdx (s : State) (op : Op) : (s.started op).pIdx = if op = .pack then 0 else s.pIdx := by
  cases op <;> rfl
@[simp] theorem State.started_uIdx (s : State) (op : Op) : (s.started op).uIdx = if op = .unpack then 0 else s.uIdx := by
  cases op <;> rfl
@[simp] theorem State.started_uBpos (s : State) (op : Op) : (s.started op).uBpos = if op = .unpack then 0 else s.uBpos := by
  cases op <;> rfl
@[simp] theorem State.started_fresh (s : State) (op : Op) : (s.started op).fresh = s.fresh := by
  cases op <;> rfl
@[simp] theorem State.started_cmds (s : State) (op : Op) : (s.started op).cmds = s.cmds := by
  cases op <;> rfl
@[simp] theorem State.started_readings (s : State) (op : Op) : (s.started op).readings = s.readings := by
  cases op <;> rfl
@[simp] theorem State.started_calls (s : State) (op : Op) : (s.started op).calls = s.calls := by
  cases op <;> rfl
@[simp] theorem State.started_chanOpen (s : State) (op : Op) : (s.started op).chanOpen = s.chanOpen := by
  cases op <;> rfl
@[simp] theorem State.started_chanLocked (s : State) (op : Op) : (s.started op).chanLocked = s.chanLocked := by
  cases op <;> rfl
@[simp] theorem State.started_tx (s : State) (op : Op) : (s.started op).tx = s.tx := by
  cases op <;> rfl
@[simp] theorem State.started_rx (s : State) (op : Op) : (s.started op).rx = s.rx := by
  cases op <;> rfl

/-! `State.resetBlock`: the block is as `State.reset` has it, the parameters, the counter of free values and the environment as
they were. -/

@[simp] theorem State.resetBlock_params (s : State) : s.resetBlock.params = s.params := rfl
@[simp] theorem State.resetBlock_phase (s : State) : s.resetBlock.phase = State.reset.phase := rfl
@[simp] theorem State.resetBlock_opsel (s : State) : s.resetBlock.opsel = State.reset.opsel := rfl
@[simp] theorem State.resetBlock_opselHeld (s : State) : s.resetBlock.opselHeld = State.reset.opselHeld := rfl
@[simp] theorem State.resetBlock_status (s : State) : s.resetBlock.status = State.reset.status := rfl
@[simp] theorem State.resetBlock_resultValid (s : State) : s.resetBlock.resultValid = State.reset.resultValid := rfl
@[simp] theorem State.resetBlock_inp (s : State) : s.resetBlock.inp = State.reset.inp := rfl
@[simp] theorem State.resetBlock_inpHeld (s : State) : s.resetBlock.inpHeld = State.reset.inpHeld := rfl
@[simp] theorem State.resetBlock_items (s : State) : s.resetBlock.items = State.reset.items := rfl
@[simp] theorem State.resetBlock_itemsHeld (s : State) : s.resetBlock.itemsHeld = State.reset.itemsHeld := rfl
@[simp] theorem State.resetBlock_pat (s : State) : s.resetBlock.pat = State.reset.pat := rfl
@[simp] theorem State.resetBlock_patHeld (s : State) : s.resetBlock.patHeld = State.reset.patHeld := rfl
@[simp] theorem State.resetBlock_out (s : State) : s.resetBlock.out = State.reset.out := rfl
@[simp] theorem State.resetBlock_outHeld (s : State) : s.resetBlock.outHeld = State.reset.outHeld := rfl
@[simp] theorem State.resetBlock_vals (s : State) : s.resetBlock.vals = State.reset.vals := rfl
@[simp] theorem State.resetBlock_valsHeld (s : State) : s.resetBlock.valsHeld = State.reset.valsHeld := rfl
@[simp] theorem State.resetBlock_eIpos (s : State) : s.resetBlock.eIpos = State.reset.eIpos := rfl
@[simp] theorem State.resetBlock_eDist (s : State) : s.resetBlock.eDist = State.reset.eDist := rfl
@[simp] theorem State.resetBlock_ePatch (s : State) : s.resetBlock.ePatch = State.reset.ePatch := rfl
@[simp] theorem State.resetBlock_dIpos (s : State) : s.resetBlock.dIpos = State.reset.dIpos := rfl
@[simp] theorem State.resetBlock_dN (s : State) : s.resetBlock.dN = State.reset.dN := rfl
@[simp] theorem State.resetBlock_dLeft (s : State) : s.resetBlock.dLeft = State.reset.dLeft := rfl
@[simp] theorem State.resetBlock_pIdx (s : State) : s.resetBlock.pIdx = State.reset.pIdx := rfl
@[simp] theorem State.resetBlock_uIdx (s : State) : s.resetBlock.uIdx = State.reset.uIdx := rfl
@[simp] theorem State.resetBlock_uBpos (s : State) : s.resetBlock.uBpos = State.reset.uBpos := rfl
@[simp] theorem State.resetBlock_fresh (s : State) : s.resetBlock.fresh = s.fresh := rfl
@[simp] theorem State.resetBlock_cmds (s : State) : s.resetBlock.cmds = s.cmds := rfl
@[simp] theorem State.resetBlock_readings (s : State) : s.resetBlock.readings = s.readings := rfl
@[simp] theorem State.resetBlock_calls (s : State) : s.resetBlock.calls = s.calls := rfl
@[simp] theorem State.resetBlock_chanOpen (s : State) : s.resetBlock.chanOpen = s.chanOpen := rfl
@[simp] theorem State.resetBlock_chanLocked (s : State) : s.resetBlock.chanLocked = s.chanLocked := rfl
@[simp] theorem State.resetBlock_tx (s : State) : s.resetBlock.tx = s.tx := rfl
@[simp] theorem State.resetBlock_rx (s : State) : s.resetBlock.rx = s.rx := rfl

end Sys2Proof.Machine
end

