-- ==== Sys2Proof/Laws/Ops.lean ====
section
/-! SUPPORT. What the shared operations can do, said once: sequencing, the start of an operation, the operand writes, the reads, the
canonical form of a byte space. -/

namespace Sys2Proof.Machine

@[simp] theorem andThen_next (s : State) (f : State → Outcome State Fault Refusal) : andThen (.next s) f = f s := rfl

@[simp] theorem andThen_fault (r : Fault) (f : State → Outcome State Fault Refusal) :
    andThen (.fault r) f = .fault r := rfl

@[simp] theorem andThen_refused (r : Refusal) (f : State → Outcome State Fault Refusal) :
    andThen (.refused r) f = .refused r := rfl

theorem andThen_eq_next {o : Outcome State Fault Refusal} {f : State → Outcome State Fault Refusal} {t : State} :
    andThen o f = .next t ↔ ∃ s, o = .next s ∧ f s = .next t := by
  cases o <;> simp

theorem andThen_eq_fault {o : Outcome State Fault Refusal} {f : State → Outcome State Fault Refusal} {r : Fault} :
    andThen o f = .fault r ↔ o = .fault r ∨ ∃ s, o = .next s ∧ f s = .fault r := by
  cases o <;> simp

/-- A start answers a next state exactly when the operation is ready, and that state is the started one. -/
theorem startOp_eq_next {s t : State} {op : Op} : s.startOp op = .next t ↔ s.ready op ∧ t = s.started op := by
  cases hp : s.phase <;> cases ho : s.operandsHeld op <;> cases hc : s.capacityOk op <;>
    simp [State.startOp, State.ready, hp, ho, hc, eq_comm]

theorem startOp_of_ready {s : State} {op : Op} (h : s.ready op) : s.startOp op = .next (s.started op) :=
  startOp_eq_next.2 ⟨h, rfl⟩

theorem startOp_ne_fault (s : State) (op : Op) (r : Fault) : s.startOp op ≠ .fault r := by
  unfold State.startOp; split_ifs <;> simp

theorem startOp_busy {s : State} (h : s.phase = .busy) (op : Op) : s.startOp op = .refused .startWhileBusy := by
  simp [State.startOp, h]

theorem writeIn_eq_next {s t : State} {bs : List Byte} :
    s.writeIn bs = .next t ↔ s.phase = .idle ∧ t = { s with inp := bs, inpHeld := true } := by
  cases hp : s.phase <;> simp [State.writeIn, hp, eq_comm]

theorem writeItems_eq_next {s t : State} {items : List Item} :
    s.writeItems items = .next t ↔ s.phase = .idle ∧ t = { s with items := items, itemsHeld := true } := by
  cases hp : s.phase <;> simp [State.writeItems, hp, eq_comm]

theorem writePat_eq_next {s t : State} {tags : List Tag} :
    s.writePat tags = .next t ↔ s.phase = .idle ∧ t = { s with pat := tags, patHeld := true } := by
  cases hp : s.phase <;> simp [State.writePat, hp, eq_comm]

/-- `OUT` can be read exactly while it holds a value of a valid result. -/
theorem readOut_eq_ok {s : State} {bs : List Byte} :
    s.readOut = .ok bs ↔ s.resultValid = true ∧ s.outHeld = true ∧ bs = s.out := by
  cases hr : s.resultValid <;> cases ho : s.outHeld <;> simp [State.readOut, hr, ho, eq_comm]

/-- `VAL[]` can be read exactly while it holds a value of a valid result. -/
theorem readVal_eq_ok {s : State} {vs : List Value} :
    s.readVal = .ok vs ↔ s.resultValid = true ∧ s.valsHeld = true ∧ vs = s.vals := by
  cases hr : s.resultValid <;> cases ho : s.valsHeld <;> simp [State.readVal, hr, ho, eq_comm]

/-- `STATUS` can be read exactly while a result is valid. -/
theorem readStatus_eq_ok {s : State} {st : Status} :
    s.readStatus = .ok st ↔ s.resultValid = true ∧ st = s.status := by
  cases hr : s.resultValid <;> simp [State.readStatus, hr, eq_comm]

theorem outToIn_eq_next {s t : State} {front : List Byte} :
    s.outToIn front = .next t ↔ s.resultValid = true ∧ s.outHeld = true ∧ s.phase = .idle ∧
      t = { s with inp := front ++ s.out, inpHeld := true } := by
  cases hr : s.resultValid <;> cases ho : s.outHeld <;>
    simp [State.outToIn, State.readOut, hr, ho, writeIn_eq_next]

/-- `OPSEL` can be read exactly once it has been written. -/
theorem readOpsel_eq_ok {s : State} {op : Op} : s.readOpsel = .ok op ↔ s.opselHeld = true ∧ op = s.opsel := by
  cases ho : s.opselHeld <;> simp [State.readOpsel, ho, eq_comm]

/-- A write to an open channel succeeds. -/
theorem sendBytes_open {s : State} (h : s.chanOpen = true) (bs : List Byte) (sent failed : State → State) :
    s.sendBytes bs sent failed = sent { s with tx := s.tx ++ bs } := by
  simp [State.sendBytes, State.writeBytes, h]

/-- Everything a write to the transport can do: all of the data is written, or, on a closed channel only, it fails with some front part
of the data written and the caller told. -/
theorem sendBytes_cases (s : State) (bs : List Byte) (sent failed : State → State) :
    (∃ n, s.sendBytes bs sent failed = sent { s with fresh := n, tx := s.tx ++ bs }) ∨
      s.chanOpen = false ∧ ∃ n k,
        s.sendBytes bs sent failed = failed (State.deliver { s with fresh := n, tx := s.tx ++ bs.take k } .transportFailed) := by
  by_cases ho : s.chanOpen = true
  · exact .inl ⟨s.fresh, sendBytes_open ho bs sent failed⟩
  · by_cases hf : Config.transportFails s.fresh = true
    · exact .inr ⟨by simpa using ho, s.fresh + 1, Config.freeIndex s.fresh, by simp [State.sendBytes, State.writeBytes, ho, hf]⟩
    · exact .inl ⟨s.fresh + 1, by simp [State.sendBytes, State.writeBytes, ho, hf]⟩

theorem transmit_eq_next {s t : State} {sent failed : State → State} :
    s.transmit sent failed = .next t ↔
      s.resultValid = true ∧ s.outHeld = true ∧ t = s.sendBytes s.out sent failed := by
  cases hr : s.resultValid <;> cases ho : s.outHeld <;>
    simp [State.transmit, State.readOut, hr, ho, eq_comm]

theorem cellsDense_zipIdx (m : List Byte) (n : Nat) :
    cellsDense n ((m.zipIdx n).map fun c => (c.2, c.1)) = true := by
  induction m generalizing n with
  | nil => rfl
  | cons b m ih => simp [cellsDense, ih]

/-- Every byte space is in canonical form, so every operation on one keeps it. -/
theorem Memory.wf_any (m : ByteSpace) : Memory.wf m = true := cellsDense_zipIdx m 0

/-- The operations that write `OUT` keep the canonical form of both spaces. -/
theorem Memory.wf_ops (s : State) (bs : List Byte) :
    Memory.wf (s.append bs).out = true ∧ Memory.wf s.patch.out = true ∧ Memory.wf s.finish.out = true ∧
      Memory.wf State.reset.inp = true ∧ Memory.wf State.reset.out = true :=
  ⟨Memory.wf_any _, Memory.wf_any _, Memory.wf_any _, Memory.wf_any _, Memory.wf_any _⟩

/-- Equal cells are equal spaces: the view as cells loses nothing. -/
theorem ByteSpace.cells_injective (m n : ByteSpace) (h : ByteSpace.cells m = ByteSpace.cells n) : m = n := by
  have key : ∀ m : ByteSpace, (ByteSpace.cells m).map Prod.snd = m := by
    intro m
    simp [ByteSpace.cells, List.map_map, Function.comp_def]
  rw [← key m, ← key n, h]

end Sys2Proof.Machine
end

