-- ==== Sys2Proof/Laws/Codec.lean ====
section
/-! SUPPORT. What the Frame Codec's shared operations do: one payload byte, the copy of a run, one iteration of the decoder, and the
two whole operations. -/

namespace Sys2Proof.Machine

/-- Everything a boundary changes. -/
theorem boundary_eq (s : State) :
    boundary s =
      { s with
        out := s.out.set s.ePatch s.eDist ++ [Config.placeholder]
        ePatch := s.out.length
        eDist := Config.distInit } := rfl

/-- A zero payload byte is a boundary, and is not copied (R103). -/
theorem encByte_zero (s : State) :
    encByte s Config.sentinel = boundary { s with eIpos := s.eIpos + 1 } := by
  simp [encByte]

/-- A non-zero payload byte below the forced boundary is appended and counted (R104). -/
theorem encByte_data {s : State} {b : Byte} (hb : b ≠ Config.sentinel) (hd : s.eDist + 1 ≠ Config.maxCode) :
    encByte s b = { s with eIpos := s.eIpos + 1, out := s.out ++ [b], eDist := s.eDist + 1 } := by
  unfold encByte
  simp only [if_neg hb]
  exact if_neg hd

/-- The 254th data byte of a run is appended and closes it with `0xFF` (R101, R104). -/
theorem encByte_forced {s : State} {b : Byte} (hb : b ≠ Config.sentinel) (hd : s.eDist + 1 = Config.maxCode) :
    encByte s b =
      boundary { s with eIpos := s.eIpos + 1, out := s.out ++ [b], eDist := s.eDist + 1 } := by
  unfold encByte
  simp only [if_neg hb]
  exact if_pos hd

/-- A payload byte changes `OUT` and the working registers of `ENC`, and nothing else. -/
theorem encByte_frame (s : State) (b : Byte) :
    encByte s b =
      { s with
        out := (encByte s b).out
        eIpos := s.eIpos + 1
        eDist := (encByte s b).eDist
        ePatch := (encByte s b).ePatch } := by
  by_cases hb : b = Config.sentinel
  · subst hb; simp [encByte_zero, boundary_eq]
  · by_cases hd : s.eDist + 1 = Config.maxCode
    · simp [encByte_forced hb hd, boundary_eq]
    · simp [encByte_data hb hd]

/-- The loop of `ENC` changes `OUT` and the working registers of `ENC`, and nothing else. -/
theorem encScan_frame (bs : List Byte) (s : State) :
    encScan bs s =
      { s with
        out := (encScan bs s).out
        eIpos := s.eIpos + bs.length
        eDist := (encScan bs s).eDist
        ePatch := (encScan bs s).ePatch } := by
  induction bs generalizing s with
  | nil => rfl
  | cons b bs ih =>
    have h : encScan (b :: bs) s = encScan bs (encByte s b) := rfl
    rw [h, ih, encByte_frame s b]
    simp [Nat.add_assoc, Nat.add_comm 1]

/-- Copying data bytes that are all there: they are appended, the cursor and the count move by their number (R123). -/
theorem copyRun_eq (k : Nat) (s : State) (h : k ≤ s.inp.length - s.dIpos) :
    copyRun k s =
      { s with
        out := s.out ++ (s.inp.drop s.dIpos).take k
        dIpos := s.dIpos + k
        dLeft := s.dLeft - k } := by
  induction k generalizing s with
  | zero => simp [copyRun]
  | succ k ih =>
    have hlt : s.dIpos < s.inp.length := by omega
    rw [copyRun, List.getElem?_eq_getElem hlt]
    simp only
    rw [ih]
    · simp [State.append, Nat.add_assoc, Nat.add_comm 1, Nat.sub_sub]
      rw [List.drop_eq_getElem_cons hlt, List.take_succ_cons]
    · simp only [State.append_inp]
      omega

/-- Everything one iteration of the decoder does up to the implied zero: it reads the run-length byte and copies the data bytes that
are there (R122, R123). -/
theorem copyRun_openRun (n : Byte) (s : State) :
    copyRun (openRun n s).dLeft (openRun n s) =
      { s with
        dN := n
        out := s.out ++ (s.inp.drop (s.dIpos + 1)).take (n.toNat - 1)
        dIpos := s.dIpos + 1 + min (n.toNat - 1) (s.inp.length - (s.dIpos + 1))
        dLeft := 0 } := by
  rw [copyRun_eq]
  · have h : ((s.inp.drop (s.dIpos + 1)).take (min (n.toNat - 1) (s.inp.length - (s.dIpos + 1)))) =
        (s.inp.drop (s.dIpos + 1)).take (n.toNat - 1) := by
      rw [← List.length_drop, ← List.take_take, List.take_length]
    simp [openRun, h]
  · simp [openRun]

/-- One iteration of the decoder changes `OUT` and the working registers of `DEC`, and leaves no data byte to copy. -/
theorem decRun_frame (n : Byte) (s : State) :
    decRun n s =
      { s with
        out := (decRun n s).out
        dN := n
        dIpos := s.dIpos + 1 + min (n.toNat - 1) (s.inp.length - (s.dIpos + 1))
        dLeft := 0 } := by
  unfold decRun
  simp only [copyRun_openRun]
  unfold impliedZero
  split <;> simp [State.append]

/-- The implied zero is appended below `0xFF` and away from the final boundary, and nothing else is (R124). -/
theorem impliedZero_out (s : State) :
    (impliedZero s).out =
      s.out ++ if s.dN < Config.maxCode ∧ s.atFinalBoundary = false then [Config.sentinel] else [] := by
  unfold impliedZero
  split_ifs <;> simp

/-- What one iteration of the decoder appends: the data bytes that are there, then the implied zero (R123, R124). -/
theorem decRun_out (n : Byte) (s : State) :
    (decRun n s).out =
      s.out ++ (s.inp.drop (s.dIpos + 1)).take (n.toNat - 1) ++
        if n < Config.maxCode ∧ (decRun n s).atFinalBoundary = false then [Config.sentinel] else [] := by
  have hb : ∀ s : State, (impliedZero s).atFinalBoundary = s.atFinalBoundary := by
    intro s
    unfold impliedZero
    split_ifs <;> rfl
  have e : decRun n s = impliedZero (copyRun (openRun n s).dLeft (openRun n s)) := rfl
  rw [e, hb, impliedZero_out, copyRun_openRun]

/-- The loop of the decoder changes `OUT` and the working registers of `DEC`, and nothing else. -/
theorem decScan_frame (k : Nat) (s : State) :
    decScan k s =
      { s with
        out := (decScan k s).out
        dN := (decScan k s).dN
        dIpos := (decScan k s).dIpos
        dLeft := (decScan k s).dLeft } := by
  induction k generalizing s with
  | zero => rfl
  | succ k ih =>
    cases h : s.inp[s.dIpos]? with
    | none => simp [decScan, h]
    | some n =>
      have e : decScan (k + 1) s = decScan k (decRun n s) := by simp [decScan, h]
      rw [e, ih, decRun_frame n s]

/-- `ENC` answers a next state exactly when it is ready, and which. -/
theorem execEnc_eq_next {s t : State} :
    execEnc s = .next t ↔ s.ready .enc ∧ t = (encScan s.inp (s.started .enc)).finish := by
  simp only [execEnc, andThen_eq_next, startOp_eq_next]
  constructor
  · rintro ⟨s1, ⟨hr, rfl⟩, h⟩
    simp at h
    exact ⟨hr, h.symm⟩
  · rintro ⟨hr, rfl⟩
    exact ⟨_, ⟨hr, rfl⟩, by simp⟩

/-- `DEC` answers a next state exactly when it is ready, and which. -/
theorem execDec_eq_next {s t : State} :
    execDec s = .next t ↔ s.ready .dec ∧ t = (decScan s.inp.length (s.started .dec)).finish := by
  simp only [execDec, andThen_eq_next, startOp_eq_next]
  constructor
  · rintro ⟨s1, ⟨hr, rfl⟩, h⟩
    simp at h
    exact ⟨hr, h.symm⟩
  · rintro ⟨hr, rfl⟩
    exact ⟨_, ⟨hr, rfl⟩, by simp⟩

/-- A run-length byte runs exactly when `DEC` is running and it is the byte at the cursor. -/
theorem runAtCursor_eq_next {n : Byte} {s t : State} :
    runAtCursor n s = .next t ↔ s.running .dec = true ∧ s.inp[s.dIpos]? = some n ∧ t = decRun n s := by
  unfold runAtCursor
  cases hr : s.running .dec <;> by_cases hc : s.inp[s.dIpos]? = some n <;> simp [hc, eq_comm]

end Sys2Proof.Machine
end

