-- ==== Sys2Proof/Laws/Packer.lean ====
section
/-! SUPPORT. What the Value Packer's shared operations do: one item, one pattern element, and the two whole operations. -/

namespace Sys2Proof.Machine

/-- An item that has a serialisation is appended, and the cursor moves on (R141 to R143). -/
theorem packItem_serialised {it : Item} {bs : List Byte} (h : Item.serialise it = some bs) (s : State) :
    packItem it s = { s with out := s.out ++ bs, pIdx := s.pIdx + 1 } := by
  cases it <;> simp_all [Item.serialise, packItem, State.append]

/-- An item has no serialisation exactly when it is `Unsupported` (R144). -/
theorem serialise_eq_none {it : Item} : Item.serialise it = none ↔ it = .unsupported := by
  cases it <;> simp [Item.serialise]

/-- An element with 4 bytes left is decoded little-endian, and both cursors move on (R161, R162). -/
theorem unpackElem_decoded {s : State} {b0 b1 b2 b3 : Byte} {rest : List Byte}
    (h : s.inp.drop s.uBpos = b0 :: b1 :: b2 :: b3 :: rest) (t : Tag) :
    unpackElem t s =
      { s with
        vals := s.vals ++ [valueOf t (wordLe b0 b1 b2 b3)]
        uBpos := s.uBpos + Config.valueBytes
        uIdx := s.uIdx + 1 } := by
  simp [unpackElem, h]

/-- Fewer than 4 bytes are left exactly when there is no group to take (R164). -/
theorem short_eq_false {s : State} :
    s.short = false ↔ ∃ b0 b1 b2 b3 rest, s.inp.drop s.uBpos = b0 :: b1 :: b2 :: b3 :: rest := by
  have hl : (s.inp.drop s.uBpos).length = s.inp.length - s.uBpos := List.length_drop ..
  simp only [State.short, Config.valueBytes, decide_eq_false_iff_not, not_lt, ← hl]
  match s.inp.drop s.uBpos with
  | [] => simp
  | [_] => simp
  | [_, _] => simp
  | [_, _, _] => simp
  | b0 :: b1 :: b2 :: b3 :: rest => simp

/-- An element with fewer than 4 bytes left raises (R164). -/
theorem unpackElem_short {s : State} (h : s.short = true) (t : Tag) :
    unpackElem t s = s.raise .truncatedPayload := by
  unfold unpackElem
  split
  · next b0 b1 b2 b3 rest he =>
    have := short_eq_false.2 ⟨b0, b1, b2, b3, rest, he⟩
    simp [this] at h
  · rfl

/-- `PACK` answers a next state exactly when it is ready, and which. -/
theorem execPack_eq_next {s t : State} :
    execPack s = .next t ↔ s.ready .pack ∧ t = packScan s.items (s.started .pack) := by
  simp only [execPack, andThen_eq_next, startOp_eq_next]
  constructor
  · rintro ⟨s1, ⟨hr, rfl⟩, h⟩
    simp at h
    exact ⟨hr, h.symm⟩
  · rintro ⟨hr, rfl⟩
    exact ⟨_, ⟨hr, rfl⟩, by simp⟩

/-- `UNPACK` answers a next state exactly when it is ready, and which. -/
theorem execUnpack_eq_next {s t : State} :
    execUnpack s = .next t ↔ s.ready .unpack ∧ t = unpackScan s.pat (s.started .unpack) := by
  simp only [execUnpack, andThen_eq_next, startOp_eq_next]
  constructor
  · rintro ⟨s1, ⟨hr, rfl⟩, h⟩
    simp at h
    exact ⟨hr, h.symm⟩
  · rintro ⟨hr, rfl⟩
    exact ⟨_, ⟨hr, rfl⟩, by simp⟩

/-- An item runs exactly when `PACK` is running and it is the item at the cursor. -/
theorem itemAtCursor_eq_next {it : Item} {s t : State} :
    itemAtCursor it s = .next t ↔ s.running .pack = true ∧ s.items[s.pIdx]? = some it ∧ t = packItem it s := by
  unfold itemAtCursor
  cases hr : s.running .pack <;> by_cases hc : s.items[s.pIdx]? = some it <;> simp [hc, eq_comm]

/-- A pattern element runs exactly when `UNPACK` is running and it is the element at the cursor. -/
theorem elemAtCursor_eq_next {g : Tag} {s t : State} :
    elemAtCursor g s = .next t ↔ s.running .unpack = true ∧ s.pat[s.uIdx]? = some g ∧ t = unpackElem g s := by
  unfold elemAtCursor
  cases hr : s.running .unpack <;> by_cases hc : s.pat[s.uIdx]? = some g <;> simp [hc, eq_comm]

end Sys2Proof.Machine
end

