-- ==== Sys2Proof/Laws/Completion.lean ====
section
/-! SUPPORT. What the completion and the error outcome of the running operation do, and when. -/

namespace Sys2Proof.Machine

theorem running_eq_true {s : State} {op : Op} : s.running op = true ↔ s.phase = .busy ∧ s.opsel = op := by
  simp [State.running]

theorem Phase.ne_idle {p : Phase} (h : ¬p = .idle) : p = .busy := by
  cases p with
  | idle => exact absurd rfl h
  | busy => rfl

/-- `STATUS.OK` runs exactly when an operation is running with its loop at the end, and a placeholder to patch if it is `ENC`. -/
theorem execStatusOk_eq_next {s t : State} :
    execStatusOk s = .next t ↔
      s.phase = .busy ∧ s.loopDone = true ∧ (s.opsel = .enc → s.ePatch < s.out.length) ∧ t = s.finish := by
  unfold execStatusOk
  constructor
  · intro h
    split_ifs at h with hp hl hk
    refine ⟨Phase.ne_idle hp, by simpa using hl, fun ho => ?_, by simpa using h.symm⟩
    by_contra hc
    exact hk ⟨ho, by omega⟩
  · rintro ⟨hp, hl, hk, rfl⟩
    rw [if_neg (by rw [hp]; decide), if_neg (by rw [hl]; decide), if_neg]
    rintro ⟨ho, hc⟩
    have := hk ho
    omega

/-- An error row runs exactly when its operation is running and its cause is there. -/
theorem raiseStep_eq_next {e : Status} {s t : State} :
    raiseStep e s = .next t ↔ s.phase = .busy ∧ s.errorCause e = true ∧ t = s.raise e := by
  unfold raiseStep
  constructor
  · intro h
    split_ifs at h with hp hc
    exact ⟨Phase.ne_idle hp, by simpa using hc, by simpa using h.symm⟩
  · rintro ⟨hp, hc, rfl⟩
    rw [if_neg (by rw [hp]; decide), if_neg (by rw [hc]; decide)]

/-- The lines after the loop complete the selected operation with `OK`. -/
theorem finish_completed (s : State) : CompletedOk s.opsel s.finish := by
  cases h : s.opsel <;> simp [State.finish, h, CompletedOk]

/-- The lines after the loop change results and control, the operation's working registers are forgotten, and nothing else changes. -/
theorem finish_frame (s : State) :
    s.finish =
      { s.forget with
        out := s.finish.out
        phase := .idle
        status := .ok
        resultValid := true
        outHeld := true
        valsHeld := s.opsel == .unpack } := by
  cases h : s.opsel <;> simp [State.finish, State.complete, State.forget, State.append, State.patch, h]

end Sys2Proof.Machine
end

