-- ==== Sys2Proof/Laws/Environment.lean ====
section
/-! SUPPORT. What the environment's shared operations can do: splitting the arrived bytes, sending a frame, a command under the
Transaction Guard, and receiving a reply. -/

namespace Sys2Proof.Machine

/-- The frame that is taken and the rest are the arrived bytes, and the frame ends with its terminator. -/
theorem takeFrame_append : ∀ {bs f rest : List Byte}, takeFrame bs = some (f, rest) → f ++ rest = bs
  | [], _, _, h => by simp [takeFrame] at h
  | b :: bs, f, rest, h => by
    unfold takeFrame at h
    split_ifs at h with hb
    · simp only [Option.some.injEq, Prod.mk.injEq] at h
      simp [← h.1, ← h.2]
    · cases ht : takeFrame bs with
      | none => simp [ht] at h
      | some fr =>
        simp only [ht, Option.some.injEq, Prod.mk.injEq] at h
        simp [← h.1, ← h.2, takeFrame_append ht]

/-- Where no close is requested, nothing falls into a gap. -/
theorem gap_of_no_close {s : State} (h : s.closeRequested = false) : s.gap = s := by
  unfold State.gap
  unfold State.closeRequested at h
  split at h
  · cases h
  · rfl

/-- A requested close falls into a gap, or it stays requested. -/
theorem gap_of_close {s : State} {rest : List EnvAction} (h : s.cmds = .act .close :: rest) :
    s.gap = { s with fresh := s.fresh + 1, cmds := rest, chanOpen := false } ∨ s.gap = { s with fresh := s.fresh + 1 } := by
  unfold State.gap
  rw [h]
  cases hf : Config.closeFalls s.fresh with
  | true => exact .inl (by simp)
  | false => exact .inr (by simp)

/-- Everything a gap can change: the Open mark, the pending actions by the close that falls, and the counter of free values. -/
theorem gap_keeps (s : State) :
    s.gap = { s with fresh := s.gap.fresh, cmds := s.gap.cmds, chanOpen := s.gap.chanOpen } := by
  unfold State.gap
  split
  · split_ifs <;> rfl
  · rfl

/-- On an open channel a frame that has arrived is what a read returns. -/
theorem readBytes_frame {s : State} {f rest : List Byte} (ho : s.chanOpen = true) (h : takeFrame s.rx = some (f, rest)) :
    s.readBytes = (.bytes f, { s with fresh := s.fresh + 1, rx := rest }) := by
  simp [State.readBytes, ho, h]

/-- Everything a read can do: return the first frame of the arrived bytes; return any bytes while no frame is there; fail, on a closed
channel only; or block while no frame is there. -/
theorem readBytes_cases (s : State) :
    (∃ f rest, takeFrame s.rx = some (f, rest) ∧
        s.readBytes = (.bytes f, { s with fresh := s.fresh + 1, rx := rest })) ∨
      (takeFrame s.rx = none ∧ ∃ bs k,
        s.readBytes = (.bytes bs, { s with fresh := s.fresh + 1, rx := s.rx.drop k })) ∨
      (s.chanOpen = false ∧ ∃ k, s.readBytes = (.failed, { s with fresh := s.fresh + 1, rx := s.rx.drop k })) ∨
      (takeFrame s.rx = none ∧ s.readBytes = (.waits, { s with fresh := s.fresh + 1 })) := by
  by_cases hc : s.chanOpen = false ∧ Config.transportFails s.fresh = true
  · exact .inr (.inr (.inl ⟨hc.1, _, by rw [State.readBytes, if_pos hc]; rfl⟩))
  · cases ht : takeFrame s.rx with
    | some fr => exact .inl ⟨fr.1, fr.2, rfl, by simp only [State.readBytes, if_neg hc, ht]⟩
    | none =>
      cases hr : Config.readTimesOut s.fresh with
      | true =>
        exact .inr (.inl ⟨rfl, Config.timeoutBytes s.fresh, Config.freeIndex s.fresh, by
          simp [State.readBytes, if_neg hc, ht, hr, State.loseArrived]⟩)
      | false => exact .inr (.inr (.inr ⟨rfl, by simp [State.readBytes, if_neg hc, ht, hr]⟩))

/-- What every read takes from the arrived bytes is a front part of them. -/
theorem readBytes_suffix (s : State) : s.readBytes.2.rx <:+ s.rx := by
  rcases readBytes_cases s with ⟨f, rest, hf, h⟩ | ⟨-, bs, k, h⟩ | ⟨-, k, h⟩ | ⟨-, h⟩ <;> rw [h]
  · exact ⟨f, takeFrame_append hf⟩
  · exact List.drop_suffix _ _
  · exact List.drop_suffix _ _

/-- A read changes the arrived bytes and the counter of free values, nothing else. -/
theorem readBytes_keeps (s : State) :
    s.readBytes.2 = { s with fresh := s.readBytes.2.fresh, rx := s.readBytes.2.rx } := by
  rcases readBytes_cases s with ⟨f, rest, -, h⟩ | ⟨-, bs, k, h⟩ | ⟨-, k, h⟩ | ⟨-, h⟩ <;> simp only [h]

/-- Everything `SENDFRAME` can do when it answers: `PACK` runs on the items; on `OK` the opcode byte and the payload are encoded and
written to the transport, otherwise the caller gets `BadCommand` and nothing is sent (R92, R195). -/
theorem sendFrame_eq_next {opcode : Byte} {items : List Item} {sent failed : State → State} {s t : State} :
    sendFrame opcode items sent failed s = .next t ↔
      s.phase = .idle ∧ ∃ u, execPack { s with items := items, itemsHeld := true } = .next u ∧
        ((u.status = .ok ∧ ∃ v, u.resultValid = true ∧ u.outHeld = true ∧ u.phase = .idle ∧
            execEnc { u with inp := opcode :: u.out, inpHeld := true } = .next v ∧ v.resultValid = true ∧
            v.outHeld = true ∧ t = v.sendBytes v.out sent failed) ∨
          (u.status ≠ .ok ∧ t = failed (u.deliver (.badCommand items)))) := by
  simp only [sendFrame, andThen_eq_next, writeItems_eq_next]
  constructor
  · rintro ⟨s1, ⟨hi, rfl⟩, u, hu, h⟩
    refine ⟨hi, u, hu, ?_⟩
    by_cases ho : u.status = .ok
    · simp only [if_pos ho, andThen_eq_next, outToIn_eq_next, transmit_eq_next] at h
      obtain ⟨u3, ⟨a, b, c, rfl⟩, v, hv, d, e, rfl⟩ := h
      exact .inl ⟨ho, v, a, b, c, hv, d, e, rfl⟩
    · simp only [if_neg ho] at h
      exact .inr ⟨ho, by simpa using h.symm⟩
  · rintro ⟨hi, u, hu, ⟨ho, v, a, b, c, hv, d, e, rfl⟩ | ⟨ho, rfl⟩⟩
    · refine ⟨_, ⟨hi, rfl⟩, u, hu, ?_⟩
      simp only [if_pos ho, andThen_eq_next, outToIn_eq_next, transmit_eq_next]
      exact ⟨_, ⟨a, b, c, rfl⟩, v, hv, d, e, rfl⟩
    · exact ⟨_, ⟨hi, rfl⟩, u, hu, if_neg ho⟩

/-- A command that finds the channel open and unlocked, with no close requested, sends its frame with the lock held (R187, R191). -/
theorem transact_ready {s : State} (h : s.channelReady) (payload : List Byte) (opcode : Byte) (items : List Item)
    (reply : Option (List Tag)) :
    transact payload opcode items reply s =
      sendFrame opcode items (State.commandSent reply) (fun s2 => s2.release true) { s with chanLocked := true } := by
  obtain ⟨h1, h2, h3, h4⟩ := h
  have hg : State.gap { s with chanLocked := true } = { s with chanLocked := true } := gap_of_no_close h4
  unfold transact
  rw [if_neg (by rw [h1]; decide), if_neg (by rw [h3]; decide)]
  simp only [hg]
  exact if_neg (by rw [h2]; decide)

/-- A command that finds the channel locked stays pending (R187). -/
theorem transact_locked {s : State} (hi : s.phase = .idle) (hl : s.chanLocked = true) (payload : List Byte)
    (opcode : Byte) (items : List Item) (reply : Option (List Tag)) :
    transact payload opcode items reply s = .next (s.push (.command payload)) := by
  unfold transact
  rw [if_neg (by rw [hi]; decide), if_pos hl]

/-- A command that finds the channel closed and unlocked, with no close requested, takes the lock, does nothing and keeps the lock
(R188). -/
theorem transact_closed {s : State} (hi : s.phase = .idle) (hl : s.chanLocked = false) (ho : s.chanOpen = false)
    (hr : s.closeRequested = false) (payload : List Byte) (opcode : Byte) (items : List Item) (reply : Option (List Tag)) :
    transact payload opcode items reply s = .next (State.deliver { s with chanLocked := true } .closedNoOp) := by
  have hg : State.gap { s with chanLocked := true } = { s with chanLocked := true } := gap_of_no_close hr
  unfold transact
  rw [if_neg (by rw [hi]; decide), if_neg (by rw [hl]; decide)]
  simp only [hg]
  exact if_pos ho

/-- Everything a command can do when it answers: wait for the lock, return without effect, or send, with the two points at which a close
may fall between (R187 to R189). -/
theorem transact_eq_next {payload : List Byte} {opcode : Byte} {items : List Item} {reply : Option (List Tag)}
    {s t : State} (h : transact payload opcode items reply s = .next t) :
    s.phase = .idle ∧
      (s.chanLocked = true ∧ t = s.push (.command payload) ∨
        (State.gap { s with chanLocked := true }).chanOpen = false ∧
          t = (State.gap { s with chanLocked := true }).deliver .closedNoOp ∨
        sendFrame opcode items (State.commandSent reply) (fun s2 => s2.release true)
          (State.gap { s with chanLocked := true }).gap = .next t) := by
  unfold transact at h
  by_cases h1 : s.phase = .busy
  · simp [h1] at h
  · refine ⟨by cases hp : s.phase <;> simp_all, ?_⟩
    rw [if_neg h1] at h
    by_cases h2 : s.chanLocked = true
    · exact .inl ⟨h2, by simpa [h2] using h.symm⟩
    · rw [if_neg h2] at h
      by_cases h3 : (State.gap { s with chanLocked := true }).chanOpen = false
      · exact .inr (.inl ⟨h3, by simpa [h3] using h.symm⟩)
      · exact .inr (.inr (by simpa [h3] using h))

/-- Everything a read into `IN` can do when it answers: block with the read still pending, report that it failed, or go on with what it
returned in `IN`. -/
theorem readFrame_eq_next {again : EnvOp} {s t : State} {got : State → Outcome State Fault Refusal}
    {failed : State → State} :
    readFrame again s got failed = .next t ↔
      s.phase = .idle ∧
        ((∃ s1, s.gap.readBytes = (.waits, s1) ∧ t = s1.push (.act again)) ∨
          (∃ s1, s.gap.readBytes = (.failed, s1) ∧ t = failed (s1.deliver .transportFailed)) ∨
          ∃ f s1, s.gap.readBytes = (.bytes f, s1) ∧ got { s1 with inp := f, inpHeld := true } = .next t) := by
  cases hp : s.phase with
  | busy => simp [readFrame, hp]
  | idle =>
    have hi : s.gap.readBytes.2.phase = .idle := by
      rw [readBytes_keeps, gap_keeps]
      exact hp
    cases hr : s.gap.readBytes with
    | mk r s1 =>
      have hw : ∀ bs, s1.writeIn bs = .next { s1 with inp := bs, inpHeld := true } := fun bs =>
        writeIn_eq_next.2 ⟨by simpa [hr] using hi, rfl⟩
      cases r <;> simp [readFrame, hp, hr, hw, eq_comm]

/-- Everything a read with a pattern can do when it answers: block, report that the read failed, or decode and unpack what it returned
and give the result to the caller (R92, R183, R199). -/
theorem receiveValues_eq_next {again : EnvOp} {tags : List Tag} {ended : Bool → State → State} {s t : State}
    (h : receiveValues again tags ended s = .next t) :
    s.phase = .idle ∧
      ((∃ s1, s.gap.readBytes = (.waits, s1) ∧ t = s1.push (.act again)) ∨
        (∃ s1, s.gap.readBytes = (.failed, s1) ∧ t = ended true (s1.deliver .transportFailed)) ∨
        ∃ f s1 u v, s.gap.readBytes = (.bytes f, s1) ∧
          execDec { s1 with inp := f, inpHeld := true } = .next u ∧ u.resultValid = true ∧ u.outHeld = true ∧
          u.phase = .idle ∧
          execUnpack { u with inp := u.out, inpHeld := true, pat := tags, patHeld := true } = .next v ∧
          t = ended (v.status != .ok) (v.deliver v.replyResult)) := by
  obtain ⟨hi, h | h | ⟨f, s1, hr, h⟩⟩ := readFrame_eq_next.1 h
  · exact ⟨hi, .inl h⟩
  · exact ⟨hi, .inr (.inl h)⟩
  · refine ⟨hi, .inr (.inr ?_)⟩
    simp only [andThen_eq_next, outToIn_eq_next, writePat_eq_next] at h
    obtain ⟨u, hu, u3, ⟨a, b, c, rfl⟩, u4, ⟨-, rfl⟩, v, hv, h⟩ := h
    exact ⟨f, s1, u, v, hr, hu, a, b, c, hv, by simpa using h.symm⟩

end Sys2Proof.Machine
end

