-- ==== Sys2Proof/Laws/PerInstr.lean ====
section
/-! SUPPORT. The family `RoundTrip`, one lemma per constructor of `Instr`: the bytes of a well-formed instruction, read in its own code
space, are that instruction. -/

namespace Sys2Proof.Laws.RoundTrip

open Sys2Proof.Machine

/-- The bytes an instruction encodes to decode to it in its own code space. -/
def Statement (i : Instr) : Prop :=
  i.wellFormed = true → decode (encode i).1 (encode i).2 = .ok i

/-- The words of a single word's bytes. -/
theorem wordsLe_le32 (w : Word) : wordsLe (le32 w) = some [w] := by
  have h := wordsLe_le32_append w []
  simpa [wordsLe] using h

theorem enc : Statement .enc := fun _ => rfl
theorem dec : Statement .dec := fun _ => rfl
theorem pack : Statement .pack := fun _ => rfl
theorem unpack : Statement .unpack := fun _ => rfl
theorem codeZero : Statement .codeZero := fun _ => rfl

theorem codeRun (n : Byte) : Statement (.codeRun n) := by
  intro h
  simp only [Instr.wellFormed, Bool.and_eq_true, bne_iff_ne] at h
  simp [encode, decode, decodeCode, h.1, h.2]

theorem codeForced : Statement .codeForced := fun _ => rfl

theorem itemInt32 (w : Word) : Statement (.itemInt32 w) := by
  intro _
  simp [encode, decode, decodeItem, le32]

theorem itemFloat32 (w : Word) : Statement (.itemFloat32 w) := by
  intro _
  simp [encode, decode, decodeItem, le32]

theorem itemRawBytes (s : List Byte) : Statement (.itemRawBytes s) := fun _ => rfl
theorem itemUnsupported : Statement .itemUnsupported := fun _ => rfl
theorem patInt : Statement .patInt := fun _ => rfl
theorem patFloat : Statement .patFloat := fun _ => rfl
theorem statusOk : Statement .statusOk := fun _ => rfl
theorem statusUnsupportedArgumentType : Statement .statusUnsupportedArgumentType := fun _ => rfl
theorem statusTruncatedPayload : Statement .statusTruncatedPayload := fun _ => rfl
theorem statusReserved : Statement .statusReserved := fun _ => rfl

theorem envSetMotor (speed : Word) : Statement (.envSetMotor speed) := by
  intro _
  simp [encode, decode, decodeEnv, wordsLe_le32]

theorem envRequestEncoder : Statement .envRequestEncoder := fun _ => rfl

theorem envSetPid (kp ki kd zeroOutput minOutput maxOutput integralRegion integralMax : Word) :
    Statement (.envSetPid kp ki kd zeroOutput minOutput maxOutput integralRegion integralMax) := by
  intro _
  have h := wordsLe_flatMap [kp, ki, kd, zeroOutput, minOutput, maxOutput, integralRegion, integralMax]
  simp only [encode, decode, decodeEnv, h]
  rfl

theorem envSetPosition (position : Word) : Statement (.envSetPosition position) := by
  intro _
  simp [encode, decode, decodeEnv, wordsLe_le32]

end Sys2Proof.Laws.RoundTrip
end

