-- ==== Sys2Proof/Laws/Step.lean ====
section
/-! SUPPORT. What a step takes: the running block's next element while the environment waits, and otherwise the environment's next
action. -/

namespace Sys2Proof.Machine

/-- While the block runs and the environment waits, the next element at the cursor is taken in place. -/
theorem fetch_waiting {s : State} (hw : s.waiting) (hb : s.phase = .busy) : fetch s = (fetchBlock s, s) := by
  unfold fetch
  split
  · rfl
  · next a rest e => rw [if_pos ⟨hw a rest e, hb⟩]

/-- A start is taken at once. -/
theorem fetch_start {s : State} {bits : BitVec 2} {rest : List EnvAction} (h : s.cmds = .start bits :: rest) :
    fetch s = (.instr .opsel [bits.setWidth 8], { s with cmds := rest }) := by
  simp [fetch, h, EnvAction.waits]

/-- A command is taken when the block is idle. -/
theorem fetch_command {s : State} {bs : List Byte} {rest : List EnvAction} (h : s.cmds = .command bs :: rest)
    (hi : s.phase = .idle) : fetch s = (.instr .env bs, { s with cmds := rest }) := by
  have hn : ¬(EnvAction.waits (.command bs) = true ∧ s.phase = .busy) := by simp [hi]
  unfold fetch
  rw [h]
  exact if_neg hn

/-- An action of the environment is taken when the block is idle or the action does not wait. -/
theorem fetch_act {s : State} {a : EnvOp} {rest : List EnvAction} (h : s.cmds = .act a :: rest)
    (hi : s.phase = .idle ∨ EnvAction.waits (.act a) = false) : fetch s = (.action a, { s with cmds := rest }) := by
  have hn : ¬(EnvAction.waits (.act a) = true ∧ s.phase = .busy) := by
    rcases hi with hi | hi <;> simp [hi]
  unfold fetch
  rw [h]
  exact if_neg hn

/-- Everything a step can take: the block's own element in place, or the environment's next action. -/
theorem fetch_cases (s : State) :
    fetch s = (fetchBlock s, s) ∨
      ∃ rest, (∃ bits, s.cmds = .start bits :: rest ∧ fetch s = (.instr .opsel [bits.setWidth 8], { s with cmds := rest })) ∨
        (∃ bs, s.cmds = .command bs :: rest ∧ fetch s = (.instr .env bs, { s with cmds := rest })) ∨
        (∃ a, s.cmds = .act a :: rest ∧ fetch s = (.action a, { s with cmds := rest })) := by
  cases hc : s.cmds with
  | nil => exact .inl (by simp [fetch, hc])
  | cons a rest =>
    by_cases hw : a.waits = true ∧ s.phase = .busy
    · exact .inl (by simp only [fetch, hc]; rw [if_pos hw])
    · refine .inr ⟨rest, ?_⟩
      unfold fetch
      rw [hc]
      simp only [if_neg hw]
      cases a with
      | start bits => exact .inl ⟨bits, rfl, rfl⟩
      | command bs => exact .inr (.inl ⟨bs, rfl, rfl⟩)
      | act a => exact .inr (.inr ⟨a, rfl, rfl⟩)

/-- The completion and the error outcome are met by their codes. -/
@[simp] theorem decode_statusBytes_ok : decode .status (Status.bytes .ok) = .ok .statusOk := rfl

@[simp] theorem decode_statusBytes_truncated :
    decode .status (Status.bytes .truncatedPayload) = .ok .statusTruncatedPayload := rfl

/-- The item at the cursor is met as its row. -/
theorem decode_itemBytes (it : Item) :
    decode .item (Item.bytes it) = .ok (match it with
      | .int32 w => .itemInt32 w
      | .float32 w => .itemFloat32 w
      | .rawBytes bs => .itemRawBytes bs
      | .unsupported => .itemUnsupported) := by
  cases it with
  | int32 w => exact congrArg (fun v => Except.ok (Instr.itemInt32 v)) (wordLe_le32 w)
  | float32 w => exact congrArg (fun v => Except.ok (Instr.itemFloat32 v)) (wordLe_le32 w)
  | rawBytes bs => rfl
  | unsupported => rfl

/-- The pattern element at the cursor is met as its row. -/
theorem decode_tagBytes (g : Tag) :
    decode .pat (Tag.bytes g) = .ok (match g with
      | .int => .patInt
      | .float => .patFloat) := by
  cases g <;> rfl

/-- The run-length byte at the cursor is met as its class's row. -/
theorem decode_codeByte (n : Byte) :
    decode .code [n] = .ok (if n = Config.sentinel then .codeZero else if n = Config.maxCode then .codeForced
      else .codeRun n) := rfl

/-- A run-length byte decodes to a row that runs it at the cursor. -/
theorem exec_codeByte (n : Byte) : ∃ i, decode .code [n] = .ok i ∧ ∀ s, exec i s = runAtCursor n s := by
  rw [decode_codeByte]
  by_cases h0 : n = Config.sentinel
  · exact ⟨_, by rw [if_pos h0], fun s => by rw [h0]; rfl⟩
  · by_cases h1 : n = Config.maxCode
    · exact ⟨_, by rw [if_neg h0, if_pos h1], fun s => by rw [h1]; rfl⟩
    · exact ⟨_, by rw [if_neg h0, if_neg h1], fun s => rfl⟩

/-- An item decodes to a row that runs it at the cursor. -/
theorem exec_itemBytes (it : Item) : ∃ i, decode .item (Item.bytes it) = .ok i ∧ ∀ s, exec i s = itemAtCursor it s := by
  rw [decode_itemBytes]
  cases it <;> exact ⟨_, rfl, fun s => rfl⟩

/-- A pattern element decodes to a row that runs it at the cursor. -/
theorem exec_tagBytes (g : Tag) : ∃ i, decode .pat (Tag.bytes g) = .ok i ∧ ∀ s, exec i s = elemAtCursor g s := by
  rw [decode_tagBytes]
  cases g <;> exact ⟨_, rfl, fun s => rfl⟩

/-- Everything the block does in one step of its own: nothing while idle; one payload byte, run-length byte, item or pattern element of the
running operation; or its completion. -/
inductive BlockStep (s t : State) : Prop where
  | idle (hp : s.phase = .idle) (ht : t = s)
  | byte (b : Byte) (hp : s.phase = .busy) (ho : s.opsel = .enc) (hc : s.inp[s.eIpos]? = some b)
    (hl : s.ePatch < s.out.length) (ht : t = encByte s b)
  | run (n : Byte) (hp : s.phase = .busy) (ho : s.opsel = .dec) (hc : s.inp[s.dIpos]? = some n) (ht : t = decRun n s)
  | item (it : Item) (hp : s.phase = .busy) (ho : s.opsel = .pack) (hc : s.items[s.pIdx]? = some it) (ht : t = packItem it s)
  | elem (g : Tag) (hp : s.phase = .busy) (ho : s.opsel = .unpack) (hc : s.pat[s.uIdx]? = some g) (ht : t = unpackElem g s)
  | done (hp : s.phase = .busy) (hl : s.loopDone = true) (hk : s.opsel = .enc → s.ePatch < s.out.length) (ht : t = s.finish)

/-- A step that is the block's own answers exactly what the block does. -/
theorem step_block {s t : State} (hf : fetch s = (fetchBlock s, s)) : step s = .next t ↔ BlockStep s t := by
  have done : ∀ {t}, exec .statusOk s = .next t → BlockStep s t := fun h => by
    obtain ⟨a, b, c, d⟩ := execStatusOk_eq_next.1 h
    exact .done a b c d
  rw [step, hf]
  constructor
  · intro h
    cases hp : s.phase with
    | idle =>
      simp only [fetchBlock, hp] at h
      exact .idle hp (by simpa using h.symm)
    | busy =>
      cases ho : s.opsel with
      | enc =>
        cases hc : s.inp[s.eIpos]? with
        | some b =>
          simp only [fetchBlock, hp, ho, hc, encStep] at h
          split_ifs at h with hl
          exact .byte b hp ho hc hl (by simpa using h.symm)
        | none =>
          simp only [fetchBlock, hp, ho, hc, decode_statusBytes_ok] at h
          exact done h
      | dec =>
        cases hc : s.inp[s.dIpos]? with
        | some n =>
          obtain ⟨i, hi, hj⟩ := exec_codeByte n
          simp only [fetchBlock, hp, ho, hc, hi, hj] at h
          exact .run n hp ho hc (runAtCursor_eq_next.1 h).2.2
        | none =>
          simp only [fetchBlock, hp, ho, hc, decode_statusBytes_ok] at h
          exact done h
      | pack =>
        cases hc : s.items[s.pIdx]? with
        | some it =>
          obtain ⟨i, hi, hj⟩ := exec_itemBytes it
          simp only [fetchBlock, hp, ho, hc, hi, hj] at h
          exact .item it hp ho hc (itemAtCursor_eq_next.1 h).2.2
        | none =>
          simp only [fetchBlock, hp, ho, hc, decode_statusBytes_ok] at h
          exact done h
      | unpack =>
        cases hc : s.pat[s.uIdx]? with
        | some g =>
          cases hs : s.short with
          | false =>
            obtain ⟨i, hi, hj⟩ := exec_tagBytes g
            simp only [fetchBlock, hp, ho, hc, hs, Bool.false_eq_true, if_false, hi, hj] at h
            exact .elem g hp ho hc (elemAtCursor_eq_next.1 h).2.2
          | true =>
            simp only [fetchBlock, hp, ho, hc, hs, if_true, decode_statusBytes_truncated] at h
            exact .elem g hp ho hc (by rw [unpackElem_short hs]; exact (raiseStep_eq_next.1 h).2.2)
        | none =>
          simp only [fetchBlock, hp, ho, hc, decode_statusBytes_ok] at h
          exact done h
  · intro h
    cases h with
    | idle hp ht => simp [fetchBlock, hp, ht]
    | byte b hp ho hc hl ht => simp [fetchBlock, hp, ho, hc, encStep, hl, ht]
    | run n hp ho hc ht =>
      obtain ⟨i, hi, hj⟩ := exec_codeByte n
      simp only [fetchBlock, hp, ho, hc, hi, hj]
      exact runAtCursor_eq_next.2 ⟨running_eq_true.2 ⟨hp, ho⟩, hc, ht⟩
    | item it hp ho hc ht =>
      obtain ⟨i, hi, hj⟩ := exec_itemBytes it
      simp only [fetchBlock, hp, ho, hc, hi, hj]
      exact itemAtCursor_eq_next.2 ⟨running_eq_true.2 ⟨hp, ho⟩, hc, ht⟩
    | elem g hp ho hc ht =>
      obtain ⟨i, hi, hj⟩ := exec_tagBytes g
      cases hs : s.short with
      | false =>
        simp only [fetchBlock, hp, ho, hc, hs, Bool.false_eq_true, if_false, hi, hj]
        exact elemAtCursor_eq_next.2 ⟨running_eq_true.2 ⟨hp, ho⟩, hc, ht⟩
      | true =>
        have hlt : s.uIdx < s.pat.length := (List.getElem?_eq_some_iff.1 hc).1
        simp only [fetchBlock, hp, ho, hc, hs, if_true, decode_statusBytes_truncated]
        refine raiseStep_eq_next.2 ⟨hp, ?_, by rw [ht, unpackElem_short hs]⟩
        simp [State.errorCause, running_eq_true.2 ⟨hp, ho⟩, hlt, hs]
    | done hp hl hk ht =>
      have hx : exec .statusOk s = .next t := execStatusOk_eq_next.2 ⟨hp, hl, hk, ht⟩
      cases ho : s.opsel <;> simp only [State.loopDone, ho, decide_eq_true_eq] at hl <;>
        simp [fetchBlock, hp, ho, hl, hx]

end Sys2Proof.Machine
end

