-- ==== Sys2Proof/Tests/Slice0.lean ====
section
/-! SUPPORT. The model's own tests: decodings written out from the tables of spec/30_encoding.md, 44 and 60; vectors of
spec/95_test_vectors.md; and for each obligation with hypotheses a state and operands that meet them. -/

namespace Sys2Proof.Tests

open Sys2Proof.Machine

/-! ### States and what is read off an outcome -/

/-- An idle block with `IN` written. -/
def inS (bs : List Byte) : State := { State.reset with inp := bs, inpHeld := true }

/-- An idle block with `ITEM[]` written. -/
def packS (items : List Item) : State := { State.reset with items := items, itemsHeld := true }

/-- An idle block with `IN` and `PAT[]` written. -/
def unpS (bs : List Byte) (tags : List Tag) : State :=
  { State.reset with inp := bs, inpHeld := true, pat := tags, patHeld := true }

/-- The same state under the other reading of the final boundary (column B of 95 section 2.2). -/
def other (s : State) : State := { s with params := { s.params with boundary := .nextAbsentOrZero } }

/-- The state with this byte capacity. -/
def capped (n : Nat) (s : State) : State := { s with params := { s.params with capBytes := some n } }

/-- Status, `OUT` and `VAL[]` of a next state. -/
def result (o : Outcome State Fault Refusal) : Option (Status × List Byte × List Value) :=
  match o with
  | .next t => some (t.status, t.out, t.vals)
  | _ => none

/-- The bytes sent and the results given back of a next state. -/
def sent (o : Outcome State Fault Refusal) : Option (List Byte × List CallResult) :=
  match o with
  | .next t => some (t.tx, t.calls)
  | _ => none

/-- The refusal. -/
def refusal (o : Outcome State Fault Refusal) : Option Refusal :=
  match o with
  | .refused r => some r
  | _ => none

/-! ### Ill-formed terms (R72) -/

theorem test_codeRun_zero_is_ill_formed : (Instr.codeRun 0x00).wellFormed = false := by decide
theorem test_codeRun_forced_is_ill_formed : (Instr.codeRun 0xFF).wellFormed = false := by decide
theorem test_codeRun_edges_are_well_formed :
    (Instr.codeRun 0x01).wellFormed = true ∧ (Instr.codeRun 0xFE).wellFormed = true := by decide

/-! ### Decoding, from the encoding tables -/

/-- R88: `OPSEL` `00`, `01`, `10`, `11`. -/
theorem test_decode_opsel :
    decode .opsel [0b00] = .ok .enc ∧ decode .opsel [0b01] = .ok .dec ∧ decode .opsel [0b10] = .ok .pack ∧
      decode .opsel [0b11] = .ok .unpack := by decide

/-- R72: the three classes, at their edges. -/
theorem test_decode_code :
    decode .code [0x00] = .ok .codeZero ∧ decode .code [0x01] = .ok (.codeRun 0x01) ∧
      decode .code [0xFE] = .ok (.codeRun 0xFE) ∧ decode .code [0xFF] = .ok .codeForced := by decide

/-- R89: item tags `00`, `01`, `10`, `11`; the content of V-PACK11, V-PACK13, V-PACK23. -/
theorem test_decode_item :
    decode .item [0b00, 0x78, 0x56, 0x34, 0x12] = .ok (.itemInt32 0x12345678) ∧
      decode .item [0b01, 0x00, 0x00, 0x20, 0x40] = .ok (.itemFloat32 0x40200000) ∧
      decode .item [0b10, 0xAA, 0xBB, 0xCC] = .ok (.itemRawBytes [0xAA, 0xBB, 0xCC]) ∧
      decode .item [0b11] = .ok .itemUnsupported := by decide

/-- R90: pattern tags `0` and `1`. -/
theorem test_decode_pat : decode .pat [0b0] = .ok .patInt ∧ decode .pat [0b1] = .ok .patFloat := by decide

/-- R211: the status codes 0 to 3. -/
theorem test_decode_status :
    decode .status [0] = .ok .statusOk ∧ decode .status [1] = .ok .statusUnsupportedArgumentType ∧
      decode .status [2] = .ok .statusTruncatedPayload ∧ decode .status [3] = .ok .statusReserved := by decide

/-- R192, R193, R196, R198: opcodes 1, 2 and 4; the payloads of V-ENC18, V-ENC23 and Program 2. -/
theorem test_decode_env :
    decode .env [0x01, 0x01, 0xFF, 0xFF, 0xFF] = .ok (.envSetMotor (BitVec.ofInt 32 (-255))) ∧
      decode .env [0x02] = .ok .envRequestEncoder ∧
      decode .env [0x04, 0xE8, 0x03, 0x00, 0x00] = .ok (.envSetPosition 1000) := by decide

/-- R197: opcode 3 with the argument bytes of V-PACK29. -/
theorem test_decode_setPid :
    decode .env [0x03, 0x00, 0x00, 0x80, 0x3F, 0x00, 0x00, 0x00, 0x3F, 0x00, 0x00, 0x80, 0x3E, 0x00, 0x00, 0x00, 0x00,
        0x00, 0x00, 0x7F, 0xC3, 0x00, 0x00, 0x7F, 0x43, 0x00, 0x00, 0x20, 0x41, 0x00, 0x00, 0xC8, 0x42] =
      .ok (.envSetPid 0x3F800000 0x3F000000 0x3E800000 0x00000000 0xC37F0000 0x437F0000 0x41200000 0x42C80000) := by
  decide

/-- R79, R88, R90, R192: what is no instruction is rejected by name. -/
theorem test_decode_rejects :
    decode .opsel [4] = .error .highBitsSet ∧ decode .pat [2] = .error .highBitsSet ∧ decode .code [] = .error .empty ∧
      decode .item [0b00, 0x01] = .error .badLength ∧ decode .env [0x05] = .error .unknownOpcode ∧
      decode .env [0x02, 0x00] = .error .badLength := by decide

/-- A table word is read in the first space that has it (notes/assumptions/1.md). -/
theorem test_table_words :
    decodeTableWord 8 0b11 = some .unpack ∧ decodeTableWord 8 4 = some (.envSetPosition 0) ∧
      decodeTableWord 8 0x05 = some (.codeRun 5) ∧ decodeTableWord 8 0xFF = some .codeForced := by decide

/-! ### The Frame Codec, from 95 sections 1 and 2 -/

/-- S2. -/
theorem test_enc_s2 :
    result (exec .enc (inS [0x01, 0x02, 0x03, 0xFF, 0x01])) = some (.ok, [0x06, 0x01, 0x02, 0x03, 0xFF, 0x01, 0x00], []) := by
  decide

/-- S3. -/
theorem test_dec_s3 :
    result (exec .dec (inS [0x00, 0x01, 0x02, 0x03, 0xFF, 0x01, 0x00])) =
      some (.ok, [0x00, 0x00, 0x03, 0x00, 0x01, 0x00], []) := by decide

/-- V-DEC22 and V-DEC23, columns A and B. -/
theorem test_dec_v22_v23 :
    result (exec .dec (inS [0x02, 0x41, 0x01])) = some (.ok, [0x41], []) ∧
      result (exec .dec (other (inS [0x02, 0x41, 0x01]))) = some (.ok, [0x41, 0x00], []) ∧
      result (exec .dec (inS [0x02, 0x41, 0x00, 0x02, 0x42, 0x00])) = some (.ok, [0x41, 0x00, 0x00, 0x42], []) ∧
      result (exec .dec (other (inS [0x02, 0x41, 0x00, 0x02, 0x42, 0x00]))) = some (.ok, [0x41, 0x00, 0x42], []) := by
  decide

/-- A running `ENC` whose run already has 253 data bytes: the next one is the 254th (R101). -/
def forcedS : State :=
  { (inS [0xAA]).started .enc with eDist := 0xFE, out := [0x00, 0x11] }

/-- R101, R104: the 254th data byte is appended, the placeholder becomes `FF`, a new one follows. -/
theorem test_enc_forced_boundary :
    result (step forcedS) = some (.ok, [0xFF, 0x11, 0xAA, 0x00], []) := by decide

/-- A running `DEC`. -/
def decS (bs : List Byte) : State := (inS bs).started .dec

/-- R126: `CODE.ZERO` copies nothing; the first run of V-DEC24 implies a zero in column A and none in column B. -/
theorem test_codeZero :
    result (exec .codeZero (decS [0x00, 0x00, 0x00])) = some (.ok, [0x00], []) ∧
      result (exec .codeZero (other (decS [0x00, 0x00, 0x00]))) = some (.ok, [], []) := by decide

/-- R124, R125: the first run of Program 2's reply is away from the final boundary; the first run of V-DEC27 is at it in column A
and not in column B. -/
theorem test_codeRun :
    result (exec (.codeRun 0x03) (decS [0x03, 0xE8, 0x03, 0x01, 0x01, 0x00])) = some (.ok, [0xE8, 0x03, 0x00], []) ∧
      result (exec (.codeRun 0x01) (decS [0x01, 0x01])) = some (.ok, [], []) ∧
      result (exec (.codeRun 0x01) (other (decS [0x01, 0x01]))) = some (.ok, [0x00], []) := by decide

/-- V-DEC17: `CODE.FORCED` at an overrun. -/
theorem test_codeForced : result (exec .codeForced (decS [0xFF, 0x41, 0x00])) = some (.ok, [0x41, 0x00], []) := by decide

/-! ### The Value Packer -/

/-- S4 and V-PACK25. -/
theorem test_pack_s4 :
    result (exec .pack (packS [.int32 1, .float32 0x40200000, .int32 2])) =
        some (.ok, [0x01, 0x00, 0x00, 0x00, 0x00, 0x00, 0x20, 0x40, 0x02, 0x00, 0x00, 0x00], []) ∧
      result (exec .pack (packS [.rawBytes [0xAA], .int32 1, .float32 0x40200000])) =
        some (.ok, [0xAA, 0x01, 0x00, 0x00, 0x00, 0x00, 0x00, 0x20, 0x40], []) := by decide

/-- V-PACK28. -/
theorem test_pack_v28 :
    result (exec .pack (packS [.int32 1, .unsupported, .int32 2])) = some (.unsupportedArgumentType, [], []) := by decide

/-- S4 back, and V-UNP8. -/
theorem test_unpack_s4 :
    result (exec .unpack (unpS [0x01, 0x00, 0x00, 0x00, 0x00, 0x00, 0x20, 0x40, 0x02, 0x00, 0x00, 0x00] [.int, .float, .int])) =
        some (.ok, [], [.int32 1, .float32 0x40200000, .int32 2]) ∧
      result (exec .unpack (unpS [0xE8, 0x03, 0x00, 0x00, 0x07, 0x00, 0x00, 0x00] [.int])) =
        some (.ok, [0x07, 0x00, 0x00, 0x00], [.int32 1000]) := by decide

/-- V-UNP16. -/
theorem test_unpack_v16 :
    result (exec .unpack (unpS [0xE8, 0x03, 0x00, 0x00, 0x07, 0x00, 0x00] [.int, .int])) =
      some (.truncatedPayload, [], []) := by decide

/-- V-UNP4, V-UNP5: the signed reading at its edges. -/
theorem test_signed_reading :
    sint32 0xFFFFFFFF = -1 ∧ sint32 0x80000000 = -2147483648 ∧ sint32 0x7FFFFFFF = 2147483647 := by decide

/-- R9, U13: the words of integers at the edges of the Int32 range (V-PACK6, V-PACK12), and none outside it. -/
theorem test_tc32 :
    tc32 (-255) = some 0xFFFFFF01 ∧ tc32 (-2147483648) = some 0x80000000 ∧ tc32 2147483647 = some 0x7FFFFFFF ∧
      tc32 2147483648 = none := by decide

/-- R81, G1: the words of 2.5, -255.0 and NaN (V-PACK13, V-PACK18, V-PACK21). -/
theorem test_floatValue :
    floatValue 0x40200000 = some (5 / 2) ∧ floatValue 0xC37F0000 = some (-255) ∧ floatValue 0x7FC00001 = none := by
  decide +kernel

/-- A running `PACK`. -/
def packRunS (items : List Item) : State := (packS items).started .pack

/-- V-PACK11, V-PACK13, V-PACK24. -/
theorem test_items :
    result (exec (.itemInt32 0x12345678) (packRunS [.int32 0x12345678])) = some (.ok, [0x78, 0x56, 0x34, 0x12], []) ∧
      result (exec (.itemFloat32 0x40200000) (packRunS [.float32 0x40200000])) = some (.ok, [0x00, 0x00, 0x20, 0x40], []) ∧
      result (exec (.itemRawBytes []) (packRunS [.rawBytes []])) = some (.ok, [], []) := by decide

/-- V-PACK27, as the item and as the status. -/
theorem test_unsupported :
    result (exec .itemUnsupported (packRunS [.unsupported])) = some (.unsupportedArgumentType, [], []) ∧
      result (exec .statusUnsupportedArgumentType (packRunS [.unsupported])) =
        some (.unsupportedArgumentType, [], []) := by decide

/-- A running `UNPACK`. -/
def unpRunS (bs : List Byte) (tags : List Tag) : State := (unpS bs tags).started .unpack

/-- V-UNP6: the same bytes under the two tags. -/
theorem test_elements :
    result (exec .patInt (unpRunS [0x00, 0x00, 0x00, 0x80] [.int])) = some (.ok, [], [.int32 0x80000000]) ∧
      result (exec .patFloat (unpRunS [0x00, 0x00, 0x00, 0x80] [.float])) = some (.ok, [], [.float32 0x80000000]) := by
  decide

/-- V-UNP13, as the element and as the status. -/
theorem test_truncated :
    result (exec .patInt (unpRunS [0xE8, 0x03, 0x00] [.int])) = some (.truncatedPayload, [], []) ∧
      result (exec .statusTruncatedPayload (unpRunS [0xE8, 0x03, 0x00] [.int])) = some (.truncatedPayload, [], []) := by
  decide

/-- E10 to E12 on the empty payload: V-ENC1. -/
theorem test_statusOk : result (exec .statusOk ((inS []).started .enc)) = some (.ok, [0x01, 0x00], []) := by decide

/-- A row out of place is refused. -/
theorem test_rows_out_of_place :
    refusal (exec .statusOk State.reset) = some .noOperationRunning ∧
      refusal (exec .statusOk (decS [0x01])) = some .operationUnfinished ∧
      refusal (exec .statusTruncatedPayload (unpRunS [0x00, 0x00, 0x00, 0x00] [.int])) = some .causeAbsent ∧
      refusal (exec .patFloat (unpRunS [] [.int])) = some .notAtCursor := by decide

/-! ### The environment's commands -/

/-- Program 1 and S5: `set_motor(100)` is sent, 256 and -256 are `BadCommand`. -/
theorem test_setMotor :
    sent (exec (.envSetMotor 100) State.reset) = some ([0x03, 0x01, 0x64, 0x01, 0x01, 0x01, 0x00], [.done]) ∧
      sent (exec (.envSetMotor 256) State.reset) = some ([], [.badCommand [.int32 256]]) ∧
      sent (exec (.envSetMotor (BitVec.ofInt 32 (-256))) State.reset) =
        some ([], [.badCommand [.int32 (BitVec.ofInt 32 (-256))]]) := by decide

/-- V-ENC18 and S5: -255 is sent. -/
theorem test_setMotor_edge :
    sent (exec (.envSetMotor (BitVec.ofInt 32 (-255))) State.reset) =
      some ([0x06, 0x01, 0x01, 0xFF, 0xFF, 0xFF, 0x00], [.done]) := by decide

/-- V-ENC23. -/
theorem test_requestEncoder : sent (exec .envRequestEncoder State.reset) = some ([0x02, 0x02, 0x00], []) := by decide

/-- Program 2. -/
theorem test_setPosition :
    sent (exec (.envSetPosition 1000) State.reset) = some ([0x04, 0x04, 0xE8, 0x03, 0x01, 0x01, 0x00], []) := by decide

/-- Program 5. -/
theorem test_setPid :
    sent (exec (.envSetPid 0x3F800000 0x3F000000 0x3E800000 0x00000000 0xC37F0000 0x437F0000 0x41200000 0x42C80000)
        State.reset) =
      some ([0x02, 0x03, 0x01, 0x03, 0x80, 0x3F, 0x01, 0x01, 0x02, 0x3F, 0x01, 0x03, 0x80, 0x3E, 0x01, 0x01, 0x01, 0x01,
        0x01, 0x03, 0x7F, 0xC3, 0x01, 0x03, 0x7F, 0x43, 0x01, 0x03, 0x20, 0x41, 0x01, 0x03, 0xC8, 0x42, 0x00], [.done]) := by
  decide

/-- Program 2, the reply; the remainder of V-UNP8 would follow the value. -/
theorem test_recvVals :
    sent (runEnvOp (.recvVals [.int]) { State.reset with rx := [0x03, 0xE8, 0x03, 0x01, 0x01, 0x00] }) =
      some ([], [.values [.int32 1000] []]) := by decide

/-- What the environment has read in a next state, and whether the channel is locked. -/
def seen (o : Outcome State Fault Refusal) : Option (List Reading × Bool) :=
  match o with
  | .next t => some (t.readings, t.chanLocked)
  | _ => none

/-- R92: `RECVVALS` alone leaves the lock; R188: the rest of a command releases it. -/
theorem test_reply_releases :
    seen (runEnvOp (.recvVals [.int]) { State.reset with chanLocked := true, rx := [0x03, 0xE8, 0x03, 0x01, 0x01, 0x00] }) =
        some ([], true) ∧
      seen (runEnvOp (.reply [.int]) { State.reset with chanLocked := true, rx := [0x03, 0xE8, 0x03, 0x01, 0x01, 0x00] }) =
        some ([], false) := by decide

/-- R181: a read gives the raw frame with its terminator, a write any data. -/
theorem test_transport_calls :
    seen (runEnvOp .readBytes { State.reset with rx := [0x02, 0x11, 0x00, 0x02] }) =
        some ([.received [0x02, 0x11, 0x00]], false) ∧
      sent (runEnvOp (.writeBytes [0x00, 0xFF]) State.reset) = some ([0x00, 0xFF], []) := by decide

/-- R21, U9: `OPSEL` is read once a start has written it, and refused before. -/
theorem test_readOpsel :
    seen (runEnvOp .readOpsel (decS [0x01])) = some ([.opsel .dec], false) ∧
      refusal (runEnvOp .readOpsel State.reset) = some .opselUnwritten := by decide

/-- R244: the start-up's channel is `Open` and `Unlocked`. -/
theorem test_openChannel :
    runEnvOp .openChannel { State.reset with chanOpen := false, chanLocked := true } = .next State.reset := rfl

/-- R240, log 26: the counter of free values goes on over a reset of the block. -/
theorem test_reset_keeps_fresh : (State.resetBlock { State.reset with fresh := 5 }).fresh = 5 := by decide

/-- S7: after `close()` nothing is sent, and a second command waits. -/
theorem test_closed :
    sent (exec .envRequestEncoder { State.reset with chanOpen := false }) = some ([], [.closedNoOp]) := by decide

/-! ### A state and operands for the hypotheses of each obligation -/

/-- The environment is about to reset a block that runs. -/
theorem witness_ResetLeavesIdleWithoutResult :
    ({ decS [0x01] with cmds := [.act .reset] } : State).cmds = .act .reset :: [] := rfl

/-- What `StepRunsTheDecodedInstruction` asks of the three kinds of environment and element. -/
theorem witness_StepRuns_start :
    ({ State.reset with cmds := [.start 3] } : State).cmds = .start 3 :: [] ∧
      decode .opsel [(3 : BitVec 2).setWidth 8] = .ok .unpack := by decide

theorem witness_StepRuns_command :
    ({ State.reset with cmds := [.command [0x02]] } : State).cmds = .command [0x02] :: [] ∧
      State.reset.phase = .idle ∧ decode .env [0x02] = .ok .envRequestEncoder := by decide

/-- The environment of these states has no action, so it waits. -/
theorem waits_for_nothing {s : State} (h : s.cmds = []) : s.waiting := by
  intro a rest e
  rw [h] at e
  cases e

theorem witness_StepRuns_code :
    (decS [0x00]).runsUndisturbed .dec ∧ (decS [0x00]).inp[(decS [0x00]).dIpos]? = some 0x00 ∧
      decode .code [0x00] = .ok .codeZero :=
  ⟨⟨rfl, rfl, waits_for_nothing rfl⟩, rfl, rfl⟩

theorem witness_StepRuns_item :
    (packRunS [.unsupported]).runsUndisturbed .pack ∧
      (packRunS [.unsupported]).items[(packRunS [.unsupported]).pIdx]? = some .unsupported ∧
      decode .item (Item.bytes .unsupported) = .ok .itemUnsupported :=
  ⟨⟨rfl, rfl, waits_for_nothing rfl⟩, rfl, rfl⟩

theorem witness_StepRuns_element :
    (unpRunS [0x00, 0x00, 0x00, 0x00] [.int]).runsUndisturbed .unpack ∧
      (unpRunS [0x00, 0x00, 0x00, 0x00] [.int]).pat[0]? = some .int ∧
      (unpRunS [0x00, 0x00, 0x00, 0x00] [.int]).short = false ∧ decode .pat (Tag.bytes .int) = .ok .patInt :=
  ⟨⟨rfl, rfl, waits_for_nothing rfl⟩, rfl, rfl, rfl⟩

theorem witness_StepRuns_short_element :
    (unpRunS [0x00, 0x00, 0x00] [.float]).runsUndisturbed .unpack ∧
      (unpRunS [0x00, 0x00, 0x00] [.float]).pat[0]? = some .float ∧
      (unpRunS [0x00, 0x00, 0x00] [.float]).short = true :=
  ⟨⟨rfl, rfl, waits_for_nothing rfl⟩, rfl, rfl⟩

theorem witness_StepRuns_completion :
    (decS []).runsUndisturbed .dec ∧ (decS []).loopDone = true :=
  ⟨⟨rfl, rfl, waits_for_nothing rfl⟩, rfl⟩

theorem witness_MisuseWhileBusyIsRefused :
    (decS []).phase = .busy ∧ ({ decS [] with cmds := [.start 0] } : State).cmds = .start 0 :: [] ∧
      ({ decS [] with cmds := [.act (.writeIn [])] } : State).cmds = .act (.writeIn []) :: [] ∧
      ({ decS [] with cmds := [.act (.writeItems [])] } : State).cmds = .act (.writeItems []) :: [] ∧
      ({ decS [] with cmds := [.act (.writePat [])] } : State).cmds = .act (.writePat []) :: [] :=
  ⟨rfl, rfl, rfl, rfl, rfl⟩

theorem witness_UnwrittenOperandIsRefused :
    State.reset.phase = .idle ∧ State.reset.inpHeld = false ∧ State.reset.itemsHeld = false ∧
      ((inS []).inpHeld = false ∨ (inS []).patHeld = false) := by decide

/-- An operand one byte too long, a frame one byte too long, and one that just fits. -/
theorem witness_CapacitiesBound_refused :
    (capped 0 (inS [0x11])).phase = .idle ∧ (capped 0 (inS [0x11])).operandsHeld .dec = true ∧
      (capped 0 (inS [0x11])).capacityOk .dec = false ∧ (capped 2 (inS [0x11])).capacityOk .enc = false ∧
      (capped 3 (inS [0x11])).capacityOk .enc = true := by decide

theorem witness_CapacitiesBound_out : ∃ t, exec .enc (capped 3 (inS [0x11])) = .next t ∧ t.outHeld = true :=
  ⟨_, rfl, rfl⟩

theorem witness_CapacitiesBound_vals :
    ∃ t, exec .unpack (unpS [0x00, 0x00, 0x00, 0x00] [.int]) = .next t ∧ t.valsHeld = true :=
  ⟨_, rfl, rfl⟩

/-- After an `UNPACK` that ended with `OK` everything can be read, and the invariant holds. -/
theorem witness_ResultsAreReadOnlyWhenValid :
    ∃ s, exec .unpack (unpS [] []) = .next s ∧ s.Inv ∧ s.resultValid = true ∧ s.status = .ok ∧ s.opsel = .unpack ∧
      s.opselHeld = true := by
  refine ⟨_, rfl, ⟨⟨?_, ?_, ?_, ?_, ?_⟩, ?_, fun h => absurd h ?_⟩, ?_⟩ <;> decide

theorem witness_EncodeMakesTheFrame : (inS []).ready .enc ∧ (capped 3 (inS [0x11])).ready .enc := by
  refine ⟨⟨?_, ?_, ?_⟩, ⟨?_, ?_, ?_⟩⟩ <;> decide

/-- A zero byte, a data byte, and the 254th data byte of a run. -/
theorem witness_EncodeSteps_zero :
    ((inS [0x00]).started .enc).runsUndisturbed .enc ∧ ((inS [0x00]).started .enc).inp[0]? = some 0x00 ∧
      ((inS [0x00]).started .enc).ePatch < ((inS [0x00]).started .enc).out.length :=
  ⟨⟨rfl, rfl, waits_for_nothing rfl⟩, rfl, by decide⟩

theorem witness_EncodeSteps_data :
    ((inS [0x11]).started .enc).runsUndisturbed .enc ∧ ((inS [0x11]).started .enc).inp[0]? = some 0x11 ∧
      ((inS [0x11]).started .enc).ePatch < ((inS [0x11]).started .enc).out.length ∧ (0x11 : Byte) ≠ 0x00 ∧
      ((inS [0x11]).started .enc).eDist + 1 ≠ 0xFF :=
  ⟨⟨rfl, rfl, waits_for_nothing rfl⟩, rfl, by decide, by decide, by decide⟩

theorem witness_EncodeSteps_forced :
    forcedS.runsUndisturbed .enc ∧ forcedS.inp[forcedS.eIpos]? = some 0xAA ∧ forcedS.ePatch < forcedS.out.length ∧
      (0xAA : Byte) ≠ 0x00 ∧ forcedS.eDist + 1 = 0xFF :=
  ⟨⟨rfl, rfl, waits_for_nothing rfl⟩, rfl, by decide, by decide, by decide⟩

/-- For `EncodedFramesMeetTheGrammar`, `EncodedLengthIsExact` and `FramesSplitOnTheSentinel`. -/
theorem witness_EncodeRuns : ∃ t, exec .enc (inS [0x11, 0x00]) = .next t ∧ t.out = [0x02, 0x11, 0x01, 0x00] :=
  ⟨_, rfl, rfl⟩

/-- For the round trip, under both readings. -/
theorem witness_DecodeInvertsEncode : (inS [0x00]).ready .enc ∧ (other (inS [0x00])).ready .enc := by
  refine ⟨⟨?_, ?_, ?_⟩, ⟨?_, ?_, ?_⟩⟩ <;> decide

theorem witness_EncodeIsInjective :
    ∃ t t', exec .enc (inS [0x00]) = .next t ∧ exec .enc (decS [0x00]).finish = .next t' ∧ t.out = t'.out :=
  ⟨_, _, rfl, rfl, rfl⟩

theorem witness_DecodeReadsTheRuns : (inS [0x01, 0x01]).ready .dec ∧ (other (inS [])).ready .dec := by
  refine ⟨⟨?_, ?_, ?_⟩, ⟨?_, ?_, ?_⟩⟩ <;> decide

theorem witness_DecodeOfNothingIsNothing : (inS []).ready .dec ∧ (inS []).inp = [] := ⟨⟨rfl, rfl, rfl⟩, rfl⟩

/-- The empty input, and the shortest frame. -/
theorem witness_DecodedLengthIsBounded :
    (∃ t, exec .dec (inS []) = .next t) ∧ (∃ t, exec .dec (inS [0x01, 0x00]) = .next t) ∧
      (inS [0x01, 0x00]).inp = cobsEncode [] :=
  ⟨⟨_, rfl⟩, ⟨_, rfl⟩, rfl⟩

/-- `CODE.ZERO`, and `CODE.RUN` at both ends of its class, away from the final boundary and at it, in both readings. -/
theorem witness_OrdinaryRun_zero :
    (decS [0x00]).running .dec = true ∧ (decS [0x00]).inp[(decS [0x00]).dIpos]? = some 0x00 ∧
      (decRun 0x00 (decS [0x00])).atFinalBoundary = true ∧
      (decRun 0x00 (decS [0x00, 0x01, 0x01])).atFinalBoundary = false := by decide

theorem witness_OrdinaryRun_one :
    (decS [0x01, 0x01, 0x00]).running .dec = true ∧ (decS [0x01, 0x01, 0x00]).inp[0]? = some 0x01 ∧
      (0x01 : Byte) ≠ 0x00 ∧ (0x01 : Byte) ≠ 0xFF ∧ (decRun 0x01 (decS [0x01, 0x01, 0x00])).atFinalBoundary = false ∧
      (decS [0x01, 0x01, 0x00]).params.boundary = .atMostOneUnread := by decide

theorem witness_OrdinaryRun_longest :
    (other (decS [0xFE, 0x41])).running .dec = true ∧ (other (decS [0xFE, 0x41])).inp[0]? = some 0xFE ∧
      (0xFE : Byte) ≠ 0x00 ∧ (0xFE : Byte) ≠ 0xFF ∧ (decRun 0xFE (other (decS [0xFE, 0x41]))).atFinalBoundary = true ∧
      (other (decS [0xFE, 0x41])).params.boundary = .nextAbsentOrZero := by decide

theorem witness_ForcedRunImpliesNoZero :
    (decS [0xFF, 0x41, 0x00]).running .dec = true ∧ (decS [0xFF, 0x41, 0x00]).inp[0]? = some 0xFF := by decide

/-- A list that packs, and one that does not. -/
theorem witness_PackConcatenatesOrFails :
    (packS [.int32 1]).ready .pack ∧ packBytes [.int32 1] = some [0x01, 0x00, 0x00, 0x00] ∧
      (packS [.int32 1, .unsupported]).ready .pack ∧ packBytes [.int32 1, .unsupported] = none := by
  refine ⟨⟨?_, ?_, ?_⟩, ?_, ⟨?_, ?_, ?_⟩, ?_⟩ <;> decide

theorem witness_PackRespectsAppend :
    ∃ t t1 t2, exec .pack (packS [.int32 1, .rawBytes [0xAA]]) = .next t ∧ exec .pack (packS [.int32 1]) = .next t1 ∧
      exec .pack (packS [.rawBytes [0xAA]]) = .next t2 ∧
      (packS [.int32 1, .rawBytes [0xAA]]).items = (packS [.int32 1]).items ++ (packS [.rawBytes [0xAA]]).items ∧
      t1.status = .ok ∧ t2.status = .ok :=
  ⟨_, _, _, rfl, rfl, rfl, rfl, rfl, rfl⟩

theorem witness_PackedLengthIsExact : ∃ t, exec .pack (packS [.int32 1, .rawBytes []]) = .next t ∧ t.status = .ok :=
  ⟨_, rfl, rfl⟩

theorem witness_ValuesAreLittleEndian :
    (packS [.int32 0x12345678]).ready .pack ∧ (packS [.float32 0x12345678]).ready .pack ∧
      (unpS [0x78, 0x56, 0x34, 0x12] [.float]).ready .unpack := by
  refine ⟨⟨?_, ?_, ?_⟩, ⟨?_, ?_, ?_⟩, ⟨?_, ?_, ?_⟩⟩ <;> decide

theorem witness_ItemIsAppended :
    (packRunS [.int32 1]).running .pack = true ∧ (packRunS [.int32 1]).items[(packRunS [.int32 1]).pIdx]? = some (.int32 1) ∧
      (packRunS [.float32 1]).running .pack = true ∧ (packRunS [.float32 1]).items[0]? = some (.float32 1) ∧
      (packRunS [.rawBytes []]).running .pack = true ∧ (packRunS [.rawBytes []]).items[0]? = some (.rawBytes []) ∧
      (packRunS [.unsupported]).running .pack = true ∧ (packRunS [.unsupported]).items[0]? = some .unsupported := by decide

/-- Enough bytes, and one too few. -/
theorem witness_UnpackReadsThePattern :
    (unpS [0x00, 0x00, 0x00, 0x00] [.int]).ready .unpack ∧
      unpackBytes [.int] [0x00, 0x00, 0x00, 0x00] = some ([.int32 0], []) ∧
      (unpS [0x00, 0x00, 0x00] [.int]).ready .unpack ∧ unpackBytes [.int] [0x00, 0x00, 0x00] = none := by
  refine ⟨⟨?_, ?_, ?_⟩, ?_, ⟨?_, ?_, ?_⟩, ?_⟩ <;> decide

/-- An exact fit, a remainder, and a pattern one byte too long. -/
theorem witness_Remainder_and_Truncated :
    (unpS [0x00, 0x00, 0x00, 0x00] [.int]).ready .unpack ∧ (unpS [0x00, 0x00, 0x00, 0x00, 0xAA] [.int]).ready .unpack ∧
      (unpS [0x00, 0x00, 0x00] [.int]).ready .unpack ∧ 4 * [Tag.int].length ≤ [0x00, 0x00, 0x00, 0x00].length ∧
      [Tag.int].length * 4 = [0x00, 0x00, 0x00, 0x00].length ∧ [0x00, 0x00, 0x00].length < 4 * [Tag.int].length := by
  refine ⟨⟨?_, ?_, ?_⟩, ⟨?_, ?_, ?_⟩, ⟨?_, ?_, ?_⟩, ?_, ?_, ?_⟩ <;> decide

theorem witness_EmptyPatternReturnsThePayload : (unpS [0xAA, 0xBB] []).ready .unpack ∧ (unpS [0xAA, 0xBB] []).pat = [] :=
  ⟨⟨rfl, rfl, rfl⟩, rfl⟩

theorem witness_PackingTheValuesGivesThePayload :
    ∃ t, exec .unpack (unpS [0x00, 0x00, 0x00, 0x00, 0xAA] [.float]) = .next t ∧ t.status = .ok :=
  ⟨_, rfl, rfl⟩

theorem witness_UnpackInvertsPack :
    (packS [.int32 1, .float32 0x40200000]).ready .pack ∧
      (packS [.int32 1, .float32 0x40200000]).items.map Item.value = [Value.int32 1, .float32 0x40200000].map some ∧
      (packS [.int32 1, .float32 0x40200000]).items.map Item.tag = [Tag.int, .float].map some := by
  refine ⟨⟨?_, ?_, ?_⟩, ?_, ?_⟩ <;> decide

theorem witness_ElementReadsFourBytes :
    (unpRunS [0x00, 0x00, 0x00, 0x80] [.int]).running .unpack = true ∧
      (unpRunS [0x00, 0x00, 0x00, 0x80] [.int]).pat[0]? = some .int ∧
      (unpRunS [0x00, 0x00, 0x00, 0x80] [.int]).inp.drop (unpRunS [0x00, 0x00, 0x00, 0x80] [.int]).uBpos = [0x00, 0x00, 0x00, 0x80] ∧
      (unpRunS [0x00, 0x00, 0x00, 0x80] [.float]).running .unpack = true ∧
      (unpRunS [0x00, 0x00, 0x00, 0x80] [.float]).pat[0]? = some .float := by decide

theorem witness_ShortElementRaises :
    (unpRunS [0x00, 0x00, 0x00] [.int]).running .unpack = true ∧ (unpRunS [0x00, 0x00, 0x00] [.int]).pat[0]? = some .int ∧
      (unpRunS [0x00, 0x00, 0x00] [.int]).inp.length - (unpRunS [0x00, 0x00, 0x00] [.int]).uBpos < 4 ∧
      (unpRunS [] [.float]).running .unpack = true ∧ (unpRunS [] [.float]).pat[0]? = some .float := by decide

/-- Each operation at the end of its loop. -/
theorem witness_CompletionDeliversTheResult :
    ((inS []).started .enc).phase = .busy ∧ ((inS []).started .enc).loopDone = true ∧
      ((inS []).started .enc).ePatch < ((inS []).started .enc).out.length ∧ (decS []).loopDone = true ∧
      (packRunS []).loopDone = true ∧ (unpRunS [0xAA] []).loopDone = true := by decide

/-- Each operation at the end of its loop, in a state that meets the invariant. -/
theorem witness_CursorsEndAtTheOperandsEnd :
    (decS []).Inv ∧ (packRunS []).Inv ∧ (decS []).phase = .busy ∧ (packRunS []).phase = .busy ∧
      (decS []).loopDone = true ∧ (packRunS []).loopDone = true := by
  refine ⟨⟨⟨?_, ?_, ?_, ?_, ?_⟩, ?_, fun _ => ⟨?_, ?_, Nat.zero_le _⟩⟩,
    ⟨⟨?_, ?_, ?_, ?_, ?_⟩, ?_, fun _ => ⟨?_, ?_, Nat.zero_le _⟩⟩, ?_, ?_, ?_, ?_⟩ <;> decide

/-- Each operation answers, and each error outcome is reached: for `StatusIsTheOperationsOwn`, `ErrorDeliversNoData` and
`OperationsLeaveTheRestUnchanged`. -/
theorem witness_Operations :
    (∃ t, exec (Op.instr .enc) (inS []) = .next t) ∧ (∃ t, exec (Op.instr .dec) (inS []) = .next t) ∧
      (∃ t, exec (Op.instr .pack) (packS [.unsupported]) = .next t ∧ t.status ≠ .ok) ∧
      ∃ t, exec (Op.instr .unpack) (unpS [] [.int]) = .next t ∧ t.status ≠ .ok :=
  ⟨⟨_, rfl⟩, ⟨_, rfl⟩, ⟨_, rfl, by decide⟩, ⟨_, rfl, by decide⟩⟩

/-- Two states with the same payload and different results before. -/
theorem witness_ResultDependsOnOperandsOnly :
    SameUsedOperands .enc (inS [0x11]) (decS [0x11]).finish ∧ (decS [0x11]).finish.params = (inS [0x11]).params ∧
      (∃ t, exec (Op.instr .enc) (inS [0x11]) = .next t) ∧ ∃ t, exec (Op.instr .enc) (decS [0x11]).finish = .next t :=
  ⟨rfl, rfl, ⟨_, rfl⟩, ⟨_, rfl⟩⟩

/-- Both edges of the motor's domain. -/
theorem witness_SetMotorSendsItsFrame :
    State.reset.channelReady ∧ State.reset.sendFits 1 [.int32 255] (le32 255) ∧ -255 ≤ sint32 255 ∧ sint32 255 ≤ 255 ∧
      State.reset.sendFits 1 [.int32 (BitVec.ofInt 32 (-255))] (le32 (BitVec.ofInt 32 (-255))) ∧
      -255 ≤ sint32 (BitVec.ofInt 32 (-255)) ∧ sint32 (BitVec.ofInt 32 (-255)) ≤ 255 := by
  refine ⟨⟨?_, ?_, ?_⟩, ⟨?_, ?_, ?_⟩, ?_, ?_, ⟨?_, ?_, ?_⟩, ?_, ?_⟩ <;> decide

/-- The first values outside it, on either side. -/
theorem witness_SetMotorChecksItsDomain :
    (sint32 256 < -255 ∨ 255 < sint32 256) ∧
      (sint32 (BitVec.ofInt 32 (-256)) < -255 ∨ 255 < sint32 (BitVec.ofInt 32 (-256))) := by decide

theorem witness_SetPidSendsItsFrame :
    State.reset.channelReady ∧
      State.reset.sendFits 3 ([0, 0, 0, 0, 0, 0, 0, 0].map .float32) ([0, 0, 0, 0, 0, 0, 0, 0].flatMap le32) := by
  refine ⟨⟨?_, ?_, ?_⟩, ⟨?_, ?_, ?_⟩⟩ <;> decide

theorem witness_CommandsWithReply :
    State.reset.channelReady ∧ State.reset.sendFits 2 [] [] ∧ State.reset.sendFits 4 [.int32 1000] (le32 1000) := by
  refine ⟨⟨?_, ?_, ?_⟩, ⟨?_, ?_, ?_⟩, ⟨?_, ?_, ?_⟩⟩ <;> decide

/-- The state in which a reply has arrived. -/
def replyS (rx : List Byte) : State := { State.reset with chanLocked := true, rx := rx }

/-- A reply that has the value. -/
theorem witness_ReplyIsDecodedAndUnpacked_values :
    (replyS [0x03, 0xE8, 0x03, 0x01, 0x01, 0x00, 0x02]).phase = .idle ∧
      (replyS [0x03, 0xE8, 0x03, 0x01, 0x01, 0x00, 0x02]).chanOpen = true ∧
      (replyS [0x03, 0xE8, 0x03, 0x01, 0x01, 0x00, 0x02]).closeRequested = false ∧
      takeFrame (replyS [0x03, 0xE8, 0x03, 0x01, 0x01, 0x00, 0x02]).rx =
        some ([0x03, 0xE8, 0x03, 0x01, 0x01, 0x00], [0x02]) ∧
      within (replyS []).params.capBytes 6 = true ∧ within (replyS []).params.capItems 1 = true ∧
      unpackBytes [.int] (cobsDecode (replyS []).params.boundary [0x03, 0xE8, 0x03, 0x01, 0x01, 0x00]) =
        some ([.int32 1000], []) := by decide

/-- A reply that is one byte too short for it (Program 3). -/
theorem witness_ReplyIsDecodedAndUnpacked_truncated :
    (replyS [0x04, 0xE8, 0x03, 0x01, 0x00]).phase = .idle ∧ (replyS [0x04, 0xE8, 0x03, 0x01, 0x00]).chanOpen = true ∧
      (replyS [0x04, 0xE8, 0x03, 0x01, 0x00]).closeRequested = false ∧
      takeFrame (replyS [0x04, 0xE8, 0x03, 0x01, 0x00]).rx = some ([0x04, 0xE8, 0x03, 0x01, 0x00], []) ∧
      within (replyS []).params.capBytes 5 = true ∧ within (replyS []).params.capItems 1 = true ∧
      unpackBytes [.int] (cobsDecode (replyS []).params.boundary [0x04, 0xE8, 0x03, 0x01, 0x00]) = none := by decide

/-- Any idle state without capacities: no frame there, a requested close, a closed channel. -/
theorem witness_ReplyIsDecodedAndUnpacked_any :
    (replyS []).phase = .idle ∧ (replyS []).params.capBytes = none ∧ (replyS []).params.capItems = none ∧
      takeFrame (replyS []).rx = none ∧ ({ replyS [] with chanOpen := false } : State).phase = .idle ∧
      ({ replyS [] with cmds := [.act .close] } : State).closeRequested = true := by decide

/-- The state in which `SetPosition(1000)` is about to be sent and its reply has arrived. -/
def setPositionS : State :=
  { State.reset with
    cmds := [.command [0x04, 0xE8, 0x03, 0x00, 0x00]]
    rx := [0x03, 0xE8, 0x03, 0x01, 0x01, 0x00] }

theorem witness_SetPositionTransactionEchoes :
    ({ setPositionS with cmds := [] } : State).channelReady ∧ setPositionS.params.capBytes = none ∧ setPositionS.params.capItems = none ∧
      setPositionS.cmds = .command (0x04 :: le32 1000) :: [] ∧ setPositionS.rx = cobsEncode (le32 1000 ++ []) ++ [] := by
  refine ⟨⟨?_, ?_, ?_⟩, ?_, ?_, ?_, ?_⟩ <;> decide

/-- The same command with the channel locked. -/
def lockedS : State := { setPositionS with chanLocked := true }

theorem witness_LockedCommandWaits :
    lockedS.cmds = .command [0x04, 0xE8, 0x03, 0x00, 0x00] :: [] ∧ lockedS.phase = .idle ∧ lockedS.chanLocked = true ∧
      decode .env [0x04, 0xE8, 0x03, 0x00, 0x00] = .ok (.envSetPosition 1000) := by decide

/-- A closed, unlocked channel, and each of the four commands. -/
theorem witness_ClosedChannel :
    ({ State.reset with chanOpen := false } : State).phase = .idle ∧
      ({ State.reset with chanOpen := false } : State).chanOpen = false ∧
      ({ State.reset with chanOpen := false } : State).chanLocked = false ∧
      ({ State.reset with chanOpen := false } : State).closeRequested = false ∧ -255 ≤ sint32 (BitVec.ofInt 32 (-255)) ∧
      sint32 255 ≤ 255 ∧ decode .env [0x02] = .ok .envRequestEncoder := by decide

/-- A close is requested while the channel is open and unlocked. -/
def closeRequestedS : State := { State.reset with cmds := [.act .close] }

/-- A command without a reply, at an edge of its domain, and one with a reply. -/
theorem witness_RequestedCloseMayFallInACommand :
    closeRequestedS.phase = .idle ∧ closeRequestedS.chanOpen = true ∧ closeRequestedS.chanLocked = false ∧
      closeRequestedS.cmds = .act .close :: [] ∧ encode (.envSetMotor 255) = (.env, [0x01, 0xFF, 0x00, 0x00, 0x00]) ∧
      -255 ≤ sint32 255 ∧ sint32 255 ≤ 255 ∧ encode .envRequestEncoder = (.env, [0x02]) ∧
      closeRequestedS.params.capBytes = none ∧ closeRequestedS.params.capItems = none := by decide

/-- An open channel; an open channel with a frame arrived and no close requested; the two other clauses have no hypothesis, and a closed
channel and a requested close are among their states. -/
theorem witness_TransportCallsReadAndWrite :
    (replyS []).chanOpen = true ∧ (replyS [0x00]).chanOpen = true ∧ (replyS [0x00]).closeRequested = false ∧
      takeFrame (replyS [0x00]).rx = some ([0x00], []) ∧ takeFrame (replyS [0x02]).rx = none ∧
      ({ State.reset with chanOpen := false } : State).chanOpen = false ∧ closeRequestedS.closeRequested = true := by decide

/-- An instruction of every space, and bytes that decode. -/
theorem witness_DecodeAndEncodeAgree :
    (Instr.codeRun 0xFE).wellFormed = true ∧ decode .env [0x02] = .ok .envRequestEncoder := by decide

/-- A running `ENC` meets the invariant, and so does a running `UNPACK`: for `NoStepFaultsUnderTheInvariant`. -/
theorem witness_Inv_running : ((inS [0x11]).started .enc).Inv ∧ (unpRunS [0x00, 0x00, 0x00, 0x00] [.int]).Inv := by
  refine ⟨⟨⟨?_, ?_, ?_, ?_, ?_⟩, ?_, fun _ => ⟨?_, ?_, ?_, ?_, ?_, ?_, ?_⟩⟩,
    ⟨⟨?_, ?_, ?_, ?_, ?_⟩, ?_, fun _ => ⟨?_, ?_, ?_, ?_, ?_, ?_⟩⟩⟩ <;> decide

theorem witness_EveryStepKeepsTheInvariant : ((inS []).started .enc).Inv ∧ ∃ t, step ((inS []).started .enc) = .next t := by
  refine ⟨⟨⟨?_, ?_, ?_, ?_, ?_⟩, ?_, fun _ => ⟨?_, ?_, ?_, ?_, ?_, ?_, ?_⟩⟩, _, rfl⟩ <;> decide

theorem witness_EveryOperationEnds :
    ((inS [0x11]).started .enc).Inv ∧ ((inS [0x11]).started .enc).phase = .busy ∧ ((inS [0x11]).started .enc).waiting :=
  ⟨witness_Inv_running.1, rfl, waits_for_nothing rfl⟩

theorem witness_RunningBlockTouchesOnlyItsOwnState :
    (decS [0x02, 0x41]).runsUndisturbed .dec ∧ ∃ t, step (decS [0x02, 0x41]) = .next t :=
  ⟨⟨rfl, rfl, waits_for_nothing rfl⟩, _, rfl⟩

/-- A step that sends. -/
theorem witness_ParametersAndSentBytesStay : ∃ t, step setPositionS = .next t ∧ t.tx ≠ [] :=
  ⟨_, rfl, by decide⟩

theorem witness_SteppedOperation :
    ({ inS [0x11] with cmds := [.act (.beginOp 0)] } : State).cmds = .act (.beginOp 0) :: [] ∧
      ({ inS [0x11] with cmds := [.act (.beginOp 0)] } : State).ready (Op.ofBits 0) ∧
      ({ inS [0x11] with cmds := [] } : State).waiting :=
  ⟨rfl, ⟨rfl, rfl, rfl⟩, waits_for_nothing rfl⟩

end Sys2Proof.Tests
end

section
/-! The byte order of the values that `PACK` serialises and `UNPACK` decodes (spec/20_memory.md rule R50): what a ready start of
either operation answers, what one element of its loop does, and what the completion leaves of the result. -/

namespace Sys2Proof.Machine

/-- A `PACK` that may start answers the state after its loop over the items. -/
theorem exec_pack_of_ready {s : State} (h : s.ready .pack) :
    exec .pack s = .next (packScan s.items (s.started .pack)) :=
  execPack_eq_next.2 ⟨h, rfl⟩

/-- An `UNPACK` that may start answers the state after its loop over the pattern. -/
theorem exec_unpack_of_ready {s : State} (h : s.ready .unpack) :
    exec .unpack s = .next (unpackScan s.pat (s.started .unpack)) :=
  execUnpack_eq_next.2 ⟨h, rfl⟩

/-- The loop of `PACK` appends the bytes of an item that has a serialisation, and goes on behind it (R141 to R143). -/
theorem packScan_cons_serialised {it : Item} {bs : List Byte} (h : Item.serialise it = some bs) (rest : List Item) (s : State) :
    packScan (it :: rest) s = packScan rest { s with out := s.out ++ bs, pIdx := s.pIdx + 1 } := by
  have hne : it ≠ .unsupported := fun hu => by simp [serialise_eq_none.2 hu] at h
  rw [packScan, if_neg hne, packItem_serialised h]

/-- The loop of `UNPACK` decodes four bytes under the tag at its cursor, and goes on behind them (R161, R162). -/
theorem unpackScan_cons_decoded {s : State} {b0 b1 b2 b3 : Byte} {tail : List Byte}
    (h : s.inp.drop s.uBpos = b0 :: b1 :: b2 :: b3 :: tail) (g : Tag) (rest : List Tag) :
    unpackScan (g :: rest) s =
      unpackScan rest
        { s with
          vals := s.vals ++ [valueOf g (wordLe b0 b1 b2 b3)]
          uBpos := s.uBpos + Config.valueBytes
          uIdx := s.uIdx + 1 } := by
  have hs : s.short = false := short_eq_false.2 ⟨b0, b1, b2, b3, tail, h⟩
  rw [unpackScan, if_neg (by simp [hs]), unpackElem_decoded h]

/-- The completion of `PACK` leaves `OUT` as its loop built it (line P9). -/
theorem finish_out_of_pack {s : State} (h : s.opsel = .pack) : s.finish.out = s.out := by
  simp [State.finish, h]

/-- The completion of an operation leaves `VAL[]` as its loop built it. -/
@[simp] theorem finish_vals (s : State) : s.finish.vals = s.vals := by
  rw [finish_frame]
  rfl

/-- A `PACK` of one item that has a serialisation gives exactly that serialisation. -/
theorem exec_pack_single {s : State} {it : Item} {bs : List Byte} (h : s.ready .pack) (hi : s.items = [it])
    (hb : Item.serialise it = some bs) : ∃ t, exec .pack s = .next t ∧ t.out = bs := by
  refine ⟨_, exec_pack_of_ready h, ?_⟩
  rw [hi, packScan_cons_serialised hb, packScan, finish_out_of_pack (by simp)]
  simp

/-- An `UNPACK` of four bytes under one tag gives exactly the value of their word. -/
theorem exec_unpack_single {s : State} {b0 b1 b2 b3 : Byte} {g : Tag} (h : s.ready .unpack)
    (hb : s.inp = [b0, b1, b2, b3]) (hp : s.pat = [g]) :
    ∃ t, exec .unpack s = .next t ∧ t.vals = [valueOf g (wordLe b0 b1 b2 b3)] := by
  refine ⟨_, exec_unpack_of_ready h, ?_⟩
  have hd : (s.started .unpack).inp.drop (s.started .unpack).uBpos = [b0, b1, b2, b3] := by simp [hb]
  rw [hp, unpackScan_cons_decoded hd, unpackScan, finish_vals]
  simp

/-- Settles O25: `le32` and `wordLe` are the bit slices of the statement, and one item or one tag runs its loop once. -/
theorem valuesAreLittleEndian : Obligations.ValuesAreLittleEndian := by
  refine ⟨fun s w hr hi => ?_, fun s b0 b1 b2 b3 g hr hb hp => exec_unpack_single hr hb hp⟩
  rcases hi with hi | hi
  · exact exec_pack_single hr hi rfl
  · exact exec_pack_single hr hi rfl

end Sys2Proof.Machine
end

section
/-! `ENC` makes the frame that the run-by-run definition gives (spec/40_cobs_encode.md rule R100): what `OUT` and the working registers
hold while a run is open, and that each payload byte keeps it. -/

namespace Sys2Proof.Machine

/-- A run of `ENC` is open: `OUT` holds the finished runs `done`, the placeholder and the run's data so far, `e_patch` points at the
placeholder and `e_dist` is the length that will be patched in (R23, R24, R36). -/
structure RunIsOpen (done run : List Byte) (s : State) : Prop where
  out : s.out = done ++ Config.placeholder :: run
  patch : s.ePatch = done.length
  dist : s.eDist = BitVec.ofNat 8 (run.length + 1)
  short : run.length < Config.maxRunData

/-- A run that is not yet full has room for one more data byte. -/
theorem length_append_lt_maxRunData {run : List Byte} (h : run.length < Config.maxRunData)
    (hn : run.length + 1 ≠ Config.maxRunData) (b : Byte) : (run ++ [b]).length < Config.maxRunData := by
  rw [List.length_append, List.length_singleton]
  omega

/-- The loop of `ENC` over no bytes does nothing. -/
@[simp] theorem encScan_nil (s : State) : encScan [] s = s := rfl

/-- The loop of `ENC` takes one payload byte and goes on with the rest. -/
@[simp] theorem encScan_cons (b : Byte) (bs : List Byte) (s : State) : encScan (b :: bs) s = encScan bs (encByte s b) := rfl

/-- `ENC` starts with an open run without data (lines E1, E2). -/
theorem started_enc_runIsOpen (s : State) : RunIsOpen [] [] (s.started .enc) := by
  constructor <;> simp [Config.distInit, Config.maxRunData]

/-- Patching overwrites the placeholder with the distance. -/
theorem patch_placeholder {s : State} {done run : List Byte} (hout : s.out = done ++ Config.placeholder :: run)
    (hpatch : s.ePatch = done.length) : s.patch.out = done ++ s.eDist :: run := by
  simp [hout, hpatch]

/-- A boundary finishes the run and opens the next one (lines B1 to B4). -/
theorem boundary_runIsOpen {s : State} {done run : List Byte} (hout : s.out = done ++ Config.placeholder :: run)
    (hpatch : s.ePatch = done.length) : RunIsOpen (done ++ s.eDist :: run) [] (boundary s) := by
  have hset := patch_placeholder hout hpatch
  rw [State.patch_out] at hset
  constructor
  · simp [boundary_eq, hset]
  · simp [boundary_eq, hout]
  · rfl
  · decide

/-- The distance after one more data byte. -/
theorem RunIsOpen.dist_succ {s : State} {done run : List Byte} (h : RunIsOpen done run s) :
    s.eDist + 1 = BitVec.ofNat 8 (run.length + 1 + 1) := by
  rw [h.dist]
  exact (BitVec.ofNat_add (run.length + 1) 1).symm

/-- The distance reaches `0xFF` exactly with the 254th data byte (R101). -/
theorem RunIsOpen.dist_forced {s : State} {done run : List Byte} (h : RunIsOpen done run s) :
    s.eDist + 1 = Config.maxCode ↔ run.length + 1 = Config.maxRunData := by
  have hs := h.short
  rw [h.dist_succ]
  simp only [Config.maxRunData, Config.maxCode] at hs ⊢
  rw [BitVec.toNat_eq]
  simp
  omega

/-- A zero finishes the open run with its length plus one (R103). -/
theorem RunIsOpen.zero {s : State} {done run : List Byte} (h : RunIsOpen done run s) :
    RunIsOpen (done ++ BitVec.ofNat 8 (run.length + 1) :: run) [] (encByte s Config.sentinel) := by
  rw [encByte_zero, ← h.dist]
  exact boundary_runIsOpen (s := { s with eIpos := s.eIpos + 1 }) h.out h.patch

/-- A data byte below the 254th joins the open run (R104). -/
theorem RunIsOpen.data {s : State} {done run : List Byte} {b : Byte} (h : RunIsOpen done run s) (hb : b ≠ Config.sentinel)
    (hn : run.length + 1 ≠ Config.maxRunData) : RunIsOpen done (run ++ [b]) (encByte s b) := by
  rw [encByte_data hb (mt h.dist_forced.1 hn)]
  constructor
  · simp [h.out]
  · exact h.patch
  · simpa using h.dist_succ
  · exact length_append_lt_maxRunData h.short hn b

/-- The 254th data byte finishes the open run with `0xFF` (R101, R104). -/
theorem RunIsOpen.forced {s : State} {done run : List Byte} {b : Byte} (h : RunIsOpen done run s) (hb : b ≠ Config.sentinel)
    (hn : run.length + 1 = Config.maxRunData) :
    RunIsOpen (done ++ Config.maxCode :: (run ++ [b])) [] (encByte s b) := by
  have hd := h.dist_forced.2 hn
  rw [encByte_forced hb hd, ← hd]
  exact boundary_runIsOpen (s := { s with eIpos := s.eIpos + 1, out := s.out ++ [b], eDist := s.eDist + 1 })
    (by simp [h.out]) h.patch

/-- The loop of `ENC` from an open run, then the last patch and the terminator, give the finished runs and then the frame of what is
left (lines E3 to E11). -/
theorem RunIsOpen.frame_of_encScan (bs : List Byte) {s : State} {done run : List Byte} (h : RunIsOpen done run s) :
    (encScan bs s).patch.out ++ [Config.sentinel] = done ++ cobsEncodeFrom run bs := by
  induction bs generalizing s done run with
  | nil =>
    rw [encScan_nil, patch_placeholder h.out h.patch, h.dist]
    simp [cobsEncodeFrom]
  | cons b bs ih =>
    rw [encScan_cons, cobsEncodeFrom]
    split_ifs with hb hn
    · rw [hb, ih h.zero]
      simp
    · rw [ih (h.forced hb hn)]
      simp
    · exact ih (h.data hb hn)

/-- The completion of `ENC` patches the last run and appends the terminator (lines E10, E11). -/
theorem finish_out_of_enc {s : State} (h : s.opsel = .enc) : s.finish.out = s.patch.out ++ [Config.sentinel] := by
  simp [State.finish, h]

/-- The loop of `ENC` leaves the operation selected. -/
@[simp] theorem encScan_opsel (bs : List Byte) (s : State) : (encScan bs s).opsel = s.opsel := by
  rw [encScan_frame]

/-- The loop of `ENC` leaves the parameters as they are. -/
@[simp] theorem encScan_params (bs : List Byte) (s : State) : (encScan bs s).params = s.params := by
  rw [encScan_frame]

/-- The completion of an operation leaves the parameters as they are. -/
@[simp] theorem finish_params (s : State) : s.finish.params = s.params := by
  rw [finish_frame]
  rfl

/-- A ready `ENC` completes with the frame of its payload in `OUT`, and the parameters stay. -/
theorem exec_enc_of_ready {s : State} (h : s.ready .enc) :
    ∃ t, exec .enc s = .next t ∧ CompletedOk .enc t ∧ t.out = cobsEncode s.inp ∧ t.params = s.params := by
  have hop : (encScan s.inp (s.started .enc)).opsel = .enc := by simp
  refine ⟨_, execEnc_eq_next.2 ⟨h, rfl⟩, ?_, ?_, ?_⟩
  · simpa [hop] using finish_completed (encScan s.inp (s.started .enc))
  · rw [finish_out_of_enc hop, (started_enc_runIsOpen s).frame_of_encScan]
    rfl
  · simp

/-- Settles O10: each payload byte keeps `RunIsOpen`, so at the end `OUT` is the frame. -/
theorem encodeMakesTheFrame : Obligations.EncodeMakesTheFrame := by
  intro s h
  obtain ⟨t, ht, hc, hout, -⟩ := exec_enc_of_ready h
  exact ⟨t, ht, hc, hout⟩

end Sys2Proof.Machine
end

section
/-! The length of the frame that `ENC` makes is the one its capacity check computes (spec/40_cobs_encode.md rule R107). -/

namespace Sys2Proof.Machine

/-- There is always a first segment. -/
theorem zeroFreeSegments_ne_nil (p : List Byte) : zeroFreeSegments p ≠ [] := by
  cases p with
  | nil => simp [zeroFreeSegments]
  | cons b p =>
    unfold zeroFreeSegments
    split
    · simp
    · split_ifs <;> simp

/-- A zero starts a new segment; another byte joins the first segment of what follows it. -/
theorem zeroFreeSegments_cons {p seg : List Byte} {segs : List (List Byte)} (h : zeroFreeSegments p = seg :: segs) (b : Byte) :
    zeroFreeSegments (b :: p) = if b = Config.sentinel then [] :: seg :: segs else (b :: seg) :: segs := by
  rw [zeroFreeSegments, h]
  rfl

/-- The length of the frame from an open run: the run's data count into the first segment of what is left (R107). -/
theorem length_cobsEncodeFrom (p : List Byte) {run seg : List Byte} {segs : List (List Byte)}
    (hrun : run.length < Config.maxRunData) (h : zeroFreeSegments p = seg :: segs) :
    (cobsEncodeFrom run p).length =
      run.length + p.length + 2 + (run.length + seg.length) / Config.maxRunData +
        (segs.map fun q => q.length / Config.maxRunData).sum := by
  induction p generalizing run seg segs with
  | nil =>
    obtain ⟨rfl, rfl⟩ : [] = seg ∧ [] = segs := by simpa [zeroFreeSegments] using h
    simp [cobsEncodeFrom, Nat.div_eq_of_lt hrun]
  | cons b p ih =>
    obtain ⟨seg', segs', h'⟩ := List.exists_cons_of_ne_nil (zeroFreeSegments_ne_nil p)
    rw [zeroFreeSegments_cons h'] at h
    rw [cobsEncodeFrom]
    split_ifs at h ⊢ with hb hn
    · obtain ⟨rfl, rfl⟩ := List.cons.inj h
      simp [ih (run := []) (by decide) h', Nat.div_eq_of_lt hrun]
      omega
    · obtain ⟨rfl, rfl⟩ := List.cons.inj h
      have hdiv : (run.length + (b :: seg').length) / Config.maxRunData = seg'.length / Config.maxRunData + 1 := by
        rw [List.length_cons, ← Nat.add_div_right _ (by decide : 0 < Config.maxRunData), ← hn]
        congr 1
        omega
      rw [hdiv]
      simp [ih (run := []) (by decide) h']
      omega
    · obtain ⟨rfl, rfl⟩ := List.cons.inj h
      rw [ih (length_append_lt_maxRunData hrun hn b) h']
      simp [Nat.add_comm, Nat.add_left_comm, Nat.add_assoc]

/-- The length law of `ENC` (R107). -/
theorem length_cobsEncode (p : List Byte) : (cobsEncode p).length = encLength p := by
  obtain ⟨seg, segs, h⟩ := List.exists_cons_of_ne_nil (zeroFreeSegments_ne_nil p)
  rw [cobsEncode, length_cobsEncodeFrom p (run := []) (by decide) h, encLength, h]
  simp [Nat.add_assoc]

end Sys2Proof.Machine
end

section
/-! `DEC` inverts `ENC` (spec/40_cobs_encode.md rule R110): `DEC` gives what reading the runs in order gives (R120), in both readings of
the final boundary, and reading the runs of a frame gives the payload. -/

namespace Sys2Proof.Machine

/-- The data bytes of a run are copied, as many as there are (R123). -/
theorem cobsDecodeFrom_data (boundary : FinalBoundary) (left : Nat) (zero : Bool) (l : List Byte) :
    cobsDecodeFrom boundary left zero l = l.take left ++ cobsDecodeFrom boundary 0 zero (l.drop left) := by
  induction l generalizing left with
  | nil => simp [cobsDecodeFrom]
  | cons b l ih =>
    cases left with
    | zero => simp
    | succ k => simp [cobsDecodeFrom, ih k]

/-- A run-length byte with no implied zero pending: its run follows (R122). -/
theorem cobsDecodeFrom_code (boundary : FinalBoundary) (n : Byte) (l : List Byte) :
    cobsDecodeFrom boundary 0 false (n :: l) = cobsDecodeFrom boundary (n.toNat - 1) (n != Config.maxCode) l := by
  simp [cobsDecodeFrom]

/-- What `DEC` will still append: the reading of the unread part of the input, from a run-length byte on. -/
def State.undecoded (s : State) : List Byte :=
  cobsDecodeFrom s.params.boundary 0 false (s.inp.drop s.dIpos)

/-- A pending implied zero is emitted before the unread part unless `DEC` is at the final boundary (R124, R125). -/
theorem cobsDecodeFrom_impliedZero (s : State) (zero : Bool) :
    cobsDecodeFrom s.params.boundary 0 zero (s.inp.drop s.dIpos) =
      (if zero = true ∧ s.atFinalBoundary = false then [Config.sentinel] else []) ++ s.undecoded := by
  have hlen : (s.inp.drop s.dIpos).length = s.inp.length - s.dIpos := List.length_drop ..
  have hget : s.inp[s.dIpos]? = (s.inp.drop s.dIpos)[0]? := by simp
  unfold State.undecoded State.atFinalBoundary
  rw [← hlen, hget]
  cases s.inp.drop s.dIpos with
  | nil => cases s.params.boundary <;> simp [cobsDecodeFrom]
  | cons b rest => cases s.params.boundary <;> cases rest <;> simp [cobsDecodeFrom]

/-- Behind one iteration of the decoder the input is unread from the end of the run on. -/
theorem decRun_drop (n : Byte) (s : State) :
    (decRun n s).inp.drop (decRun n s).dIpos = (s.inp.drop (s.dIpos + 1)).drop (n.toNat - 1) := by
  rw [decRun_frame, List.drop_drop, List.drop_eq_drop_iff]
  simp only
  omega

/-- One iteration of the decoder leaves the parameters as they are. -/
theorem decRun_params (n : Byte) (s : State) : (decRun n s).params = s.params := by
  rw [decRun_frame]

/-- One iteration of the decoder moves the reading of its run into `OUT`. -/
theorem decRun_out_undecoded {n : Byte} {s : State} (h : s.inp[s.dIpos]? = some n) :
    (decRun n s).out ++ (decRun n s).undecoded = s.out ++ s.undecoded := by
  obtain ⟨hlt, hget⟩ := List.getElem?_eq_some_iff.1 h
  have hz : (n != Config.maxCode) = true ↔ n < Config.maxCode := by
    simp only [bne_iff_ne, Config.maxCode]
    bv_omega
  have hread : s.undecoded =
      (s.inp.drop (s.dIpos + 1)).take (n.toNat - 1) ++
        cobsDecodeFrom s.params.boundary 0 (n != Config.maxCode) ((s.inp.drop (s.dIpos + 1)).drop (n.toNat - 1)) := by
    rw [State.undecoded, List.drop_eq_getElem_cons hlt, hget, cobsDecodeFrom_code, ← cobsDecodeFrom_data]
  rw [hread, ← decRun_drop, ← decRun_params n s, cobsDecodeFrom_impliedZero, decRun_out]
  simp only [hz, List.append_assoc]

/-- The loop of the decoder, with enough iterations at hand, appends the reading of the whole unread input (lines D2 to D8, R120). -/
theorem decScan_out (k : Nat) {s : State} (hk : s.inp.length - s.dIpos ≤ k) :
    (decScan k s).out = s.out ++ s.undecoded := by
  induction k generalizing s with
  | zero =>
    rw [decScan, State.undecoded, List.drop_eq_nil_of_le (by omega)]
    simp [cobsDecodeFrom]
  | succ k ih =>
    rw [decScan]
    split
    · next n hn =>
      rw [← decRun_out_undecoded hn]
      apply ih
      rw [decRun_frame]
      simp only
      omega
    · next hn =>
      rw [State.undecoded, List.drop_eq_nil_of_le (List.getElem?_eq_none_iff.1 hn)]
      simp [cobsDecodeFrom]

/-- The completion of `DEC` leaves `OUT` as its loop built it (line D9). -/
theorem finish_out_of_dec {s : State} (h : s.opsel = .dec) : s.finish.out = s.out := by
  simp [State.finish, h]

/-- A ready `DEC` completes with the payload of its input in `OUT`, in the reading of the final boundary that the parameter names. -/
theorem exec_dec_of_ready {s : State} (h : s.ready .dec) :
    ∃ t, exec .dec s = .next t ∧ CompletedOk .dec t ∧ t.out = cobsDecode s.params.boundary s.inp := by
  have hop : (decScan s.inp.length (s.started .dec)).opsel = .dec := by
    rw [decScan_frame]
    simp
  refine ⟨_, execDec_eq_next.2 ⟨h, rfl⟩, ?_, ?_⟩
  · simpa [hop] using finish_completed (decScan s.inp.length (s.started .dec))
  · rw [finish_out_of_dec hop, decScan_out _ (by simp)]
    simp [State.undecoded, cobsDecode]

/-- A frame from an open run on is never empty. -/
theorem cobsEncodeFrom_ne_nil (run p : List Byte) : cobsEncodeFrom run p ≠ [] := by
  induction p generalizing run with
  | nil => simp [cobsEncodeFrom]
  | cons b p ih =>
    rw [cobsEncodeFrom]
    split_ifs
    · simp
    · simp
    · exact ih _

/-- A complete run that something follows: the implied zero of the run before it, its data, and then the rest (R71, R124). -/
theorem cobsDecodeFrom_run (boundary : FinalBoundary) (zero : Bool) {n : Byte} {data rest : List Byte}
    (hn : n.toNat = data.length + 1) (hrest : rest ≠ []) :
    cobsDecodeFrom boundary 0 zero (n :: (data ++ rest)) =
      (if zero then [Config.sentinel] else []) ++ data ++ cobsDecodeFrom boundary 0 (n != Config.maxCode) rest := by
  have hn0 : n ≠ 0#8 := by
    rintro rfl
    simp at hn
  have hpending : cobsDecodeFrom boundary 0 zero (n :: (data ++ rest)) =
      (if zero then [Config.sentinel] else []) ++ cobsDecodeFrom boundary 0 false (n :: (data ++ rest)) := by
    cases boundary <;> simp [cobsDecodeFrom, hn0, hrest]
  rw [hpending, cobsDecodeFrom_code, hn, Nat.add_sub_cancel, cobsDecodeFrom_data, List.take_left, List.drop_left,
    List.append_assoc]

/-- The terminator ends the reading, in both readings of the final boundary (R125). -/
theorem cobsDecodeFrom_terminator (boundary : FinalBoundary) (zero : Bool) :
    cobsDecodeFrom boundary 0 zero [Config.sentinel] = [] := by
  cases boundary <;> simp [cobsDecodeFrom, Config.sentinel]

/-- The code of an open run: its length plus one, below `0xFF`. -/
theorem runCode_of_short {run : List Byte} (h : run.length < Config.maxRunData) :
    (BitVec.ofNat 8 (run.length + 1)).toNat = run.length + 1 ∧ (BitVec.ofNat 8 (run.length + 1) != Config.maxCode) = true := by
  simp only [Config.maxRunData] at h
  have hv : (BitVec.ofNat 8 (run.length + 1)).toNat = run.length + 1 := by
    rw [BitVec.toNat_ofNat]
    omega
  refine ⟨hv, bne_iff_ne.2 fun he => ?_⟩
  have hfull : run.length + 1 = Config.maxCode.toNat := hv.symm.trans (congrArg BitVec.toNat he)
  simp [Config.maxCode] at hfull
  omega

/-- Reading the frame from an open run on gives the run's data and the rest of the payload, behind the implied zero that was pending. -/
theorem cobsDecodeFrom_cobsEncodeFrom (boundary : FinalBoundary) (zero : Bool) (p : List Byte) {run : List Byte}
    (hrun : run.length < Config.maxRunData) :
    cobsDecodeFrom boundary 0 zero (cobsEncodeFrom run p) = (if zero then [Config.sentinel] else []) ++ run ++ p := by
  induction p generalizing zero run with
  | nil =>
    rw [cobsEncodeFrom, cobsDecodeFrom_run boundary zero (runCode_of_short hrun).1 (by simp), cobsDecodeFrom_terminator]
  | cons b p ih =>
    have hempty : ([] : List Byte).length < Config.maxRunData := by decide
    have hrest := cobsEncodeFrom_ne_nil [] p
    rw [cobsEncodeFrom]
    by_cases hb : b = Config.sentinel
    · obtain ⟨hcode, hbelow⟩ := runCode_of_short hrun
      rw [if_pos hb, cobsDecodeFrom_run boundary zero hcode hrest, hbelow, ih true hempty, hb]
      simp
    by_cases hn : run.length + 1 = Config.maxRunData
    · have hcode : Config.maxCode.toNat = (run ++ [b]).length + 1 := by
        rw [List.length_append, List.length_singleton, hn]
        rfl
      rw [if_neg hb, if_pos hn, List.append_cons, cobsDecodeFrom_run boundary zero hcode hrest, bne_self_eq_false,
        ih false hempty]
      simp
    · rw [if_neg hb, if_neg hn, ih zero (length_append_lt_maxRunData hrun hn b)]
      simp

/-- Reading the runs of a frame gives the payload, in both readings of the final boundary (R110). -/
theorem cobsDecode_cobsEncode (boundary : FinalBoundary) (p : List Byte) : cobsDecode boundary (cobsEncode p) = p :=
  cobsDecodeFrom_cobsEncodeFrom boundary false p (by decide)

/-- Settles O14: the frame fits, as its length is the one checked at the start of `ENC`, and reading its runs gives the payload. -/
theorem decodeInvertsEncode : Obligations.DecodeInvertsEncode := by
  intro s h
  obtain ⟨t, ht, ⟨hidle, -, -, hvalid, hheld, -⟩, hout, hparams⟩ := exec_enc_of_ready h
  obtain ⟨-, -, hcap⟩ := h
  have hready : State.ready { t with inp := t.out, inpHeld := true } .dec := by
    refine ⟨hidle, rfl, ?_⟩
    simp only [State.capacityOk, Bool.and_eq_true] at hcap ⊢
    rw [hparams, hout, length_cobsEncode]
    exact hcap.2
  obtain ⟨v, hv, hc, hvout⟩ := exec_dec_of_ready hready
  refine ⟨t, _, v, ht, outToIn_eq_next.2 ⟨hvalid, hheld, hidle, rfl⟩, hv, hc, ?_⟩
  rw [hvout]
  simp only [hout, cobsDecode_cobsEncode]

end Sys2Proof.Machine
end

section
/-! The decoder on the empty input (spec/41_cobs_decode.md rule R131). -/

namespace Sys2Proof.Machine

/-- There is no run to read in the empty input, in either reading of the final boundary. -/
@[simp] theorem cobsDecode_nil (boundary : FinalBoundary) : cobsDecode boundary [] = [] := rfl

/-- Settles O18: a ready `DEC` leaves the reading of its input in `OUT`, and the empty input has no run to read. -/
theorem decodeOfNothingIsNothing : Obligations.DecodeOfNothingIsNothing := by
  intro s h hnil
  obtain ⟨t, ht, ⟨-, -, hstatus, -⟩, hout⟩ := exec_dec_of_ready h
  refine ⟨t, ht, ?_, hstatus⟩
  rw [hout, hnil, cobsDecode_nil]

end Sys2Proof.Machine
end

section
/-! `PACK` concatenates the serialisations of its items or ends with `UnsupportedArgumentType` (spec/42_pack.md rules R140, R144): what
`packBytes` gives, and where the loop over the items ends in either case. -/

namespace Sys2Proof.Machine

/-- A list packs when its first item has a serialisation and the rest packs, to the first item's bytes in front of the rest's. -/
theorem packBytes_cons_eq_some {it : Item} {rest : List Item} {p : List Byte} :
    packBytes (it :: rest) = some p ↔ ∃ bs q, Item.serialise it = some bs ∧ packBytes rest = some q ∧ bs ++ q = p := by
  cases hb : Item.serialise it <;> cases hq : packBytes rest <;> simp [packBytes, hb, hq]

/-- A list does not pack when its first item has no serialisation or the rest does not pack. -/
theorem packBytes_cons_eq_none {it : Item} {rest : List Item} :
    packBytes (it :: rest) = none ↔ Item.serialise it = none ∨ packBytes rest = none := by
  cases hb : Item.serialise it <;> cases hq : packBytes rest <;> simp [packBytes, hb, hq]

/-- A list does not pack exactly when an item of it is `Unsupported` (R144). -/
theorem packBytes_eq_none {items : List Item} : packBytes items = none ↔ .unsupported ∈ items := by
  induction items with
  | nil => simp [packBytes]
  | cons it rest ih => rw [packBytes_cons_eq_none, serialise_eq_none, ih, List.mem_cons, eq_comm]

/-- The loop of `PACK` over a list that packs appends the list's bytes and completes behind its last item (lines P2 to P9). -/
theorem packScan_of_packBytes {items : List Item} {p : List Byte} (h : packBytes items = some p) (s : State) :
    packScan items s = { s with out := s.out ++ p, pIdx := s.pIdx + items.length }.finish := by
  induction items generalizing p s with
  | nil =>
    obtain rfl : [] = p := Option.some.inj h
    simp [packScan]
  | cons it rest ih =>
    obtain ⟨bs, q, hb, hq, rfl⟩ := packBytes_cons_eq_some.1 h
    rw [packScan_cons_serialised hb, ih hq]
    simp [Nat.add_assoc, Nat.add_comm 1]

/-- The loop of `PACK` over a list with an `Unsupported` item raises, in a state of the same operation (line P7, R144). -/
theorem packScan_of_unsupported {items : List Item} (h : .unsupported ∈ items) (s : State) :
    ∃ u : State, packScan items s = u.raise .unsupportedArgumentType ∧ u.opsel = s.opsel := by
  induction items generalizing s with
  | nil => simp at h
  | cons it rest ih =>
    by_cases hu : it = .unsupported
    · exact ⟨s, by rw [packScan, if_pos hu, hu, packItem], rfl⟩
    · obtain ⟨bs, hb⟩ := Option.ne_none_iff_exists'.1 (mt serialise_eq_none.1 hu)
      rw [packScan_cons_serialised hb]
      exact ih (List.mem_of_ne_of_mem (Ne.symm hu) h) _

/-- A ready `PACK` of a list that packs completes with the list's bytes in `OUT`. -/
theorem exec_pack_of_packBytes {s : State} {p : List Byte} (h : s.ready .pack) (hp : packBytes s.items = some p) :
    ∃ t, exec .pack s = .next t ∧ CompletedOk .pack t ∧ t.out = p := by
  refine ⟨_, exec_pack_of_ready h, ?_⟩
  rw [packScan_of_packBytes hp]
  refine ⟨finish_completed _, ?_⟩
  rw [finish_out_of_pack (by simp)]
  simp

/-- A ready `PACK` with an `Unsupported` item ends with the error outcome, which delivers no value. -/
theorem exec_pack_of_unsupported {s : State} (h : s.ready .pack) (hu : .unsupported ∈ s.items) :
    ∃ t, exec .pack s = .next t ∧ EndedWith .unsupportedArgumentType .pack t := by
  obtain ⟨u, hscan, hop⟩ := packScan_of_unsupported hu (s.started .pack)
  refine ⟨_, exec_pack_of_ready h, ?_⟩
  rw [hscan]
  simp [EndedWith, hop]

/-- Settles O22: a list packs or has an `Unsupported` item, and the loop of a ready `PACK` ends accordingly. -/
theorem packConcatenatesOrFails : Obligations.PackConcatenatesOrFails := by
  intro s h
  by_cases hu : .unsupported ∈ s.items
  · obtain ⟨t, ht, hend⟩ := exec_pack_of_unsupported h hu
    exact ⟨t, ht, fun p hp => by simp [packBytes_eq_none.2 hu] at hp, fun _ => hend, packBytes_eq_none⟩
  · obtain ⟨p, hp⟩ := Option.ne_none_iff_exists'.1 (mt packBytes_eq_none.1 hu)
    obtain ⟨t, ht, hok, hout⟩ := exec_pack_of_packBytes h hp
    refine ⟨t, ht, fun q hq => ⟨hok, ?_⟩, fun hn => absurd (packBytes_eq_none.1 hn) hu, packBytes_eq_none⟩
    exact hout.trans (Option.some.inj (hp.symm.trans hq))

end Sys2Proof.Machine
end

section
/-! `UNPACK` gives the values and the remainder or ends with `TruncatedPayload` (spec/43_unpack.md rules R160, R163, R164): what
`unpackBytes` gives, and where the loop over the pattern ends in either case. -/

namespace Sys2Proof.Machine

/-- A payload unpacks when it begins with a group of 4 bytes and the rest unpacks, to the group's value in front of the rest's. -/
theorem unpackBytes_cons_eq_some {g : Tag} {tags : List Tag} {p rest : List Byte} {vs : List Value} :
    unpackBytes (g :: tags) p = some (vs, rest) ↔
      ∃ b0 b1 b2 b3 q ws, p = b0 :: b1 :: b2 :: b3 :: q ∧ unpackBytes tags q = some (ws, rest) ∧
        valueOf g (wordLe b0 b1 b2 b3) :: ws = vs := by
  match p with
  | [] => simp [unpackBytes]
  | [_] => simp [unpackBytes]
  | [_, _] => simp [unpackBytes]
  | [_, _, _] => simp [unpackBytes]
  | b0 :: b1 :: b2 :: b3 :: q =>
    rcases hq : unpackBytes tags q with _ | ⟨ws, r⟩
    · simp [unpackBytes, hq]
    · simp [unpackBytes, hq, and_comm, and_assoc]

/-- A payload with 4 bytes for every element of the pattern unpacks, and the bytes behind them are the remainder (R163). -/
theorem unpackBytes_of_length_le {tags : List Tag} {p : List Byte} (h : 4 * tags.length ≤ p.length) :
    ∃ vs, unpackBytes tags p = some (vs, p.drop (4 * tags.length)) := by
  induction tags generalizing p with
  | nil => exact ⟨[], rfl⟩
  | cons g tags ih =>
    match p with
    | [] | [_] | [_, _] | [_, _, _] =>
      simp only [List.length_cons, List.length_nil] at h
      omega
    | b0 :: b1 :: b2 :: b3 :: q =>
      obtain ⟨ws, hws⟩ := ih (p := q) (by simp only [List.length_cons] at h; omega)
      exact ⟨_, unpackBytes_cons_eq_some.2 ⟨b0, b1, b2, b3, q, ws, rfl, hws, rfl⟩⟩

/-- A payload that unpacks has 4 bytes for every element of the pattern. -/
theorem length_le_of_unpackBytes {tags : List Tag} {p rest : List Byte} {vs : List Value}
    (h : unpackBytes tags p = some (vs, rest)) : 4 * tags.length ≤ p.length := by
  induction tags generalizing p vs with
  | nil => simp
  | cons g tags ih =>
    obtain ⟨b0, b1, b2, b3, q, ws, rfl, hq, -⟩ := unpackBytes_cons_eq_some.1 h
    have := ih hq
    simp only [List.length_cons]
    omega

/-- A payload does not unpack exactly when the pattern needs more bytes than there are (R164). -/
theorem unpackBytes_eq_none {tags : List Tag} {p : List Byte} : unpackBytes tags p = none ↔ p.length < 4 * tags.length := by
  constructor
  · intro hn
    by_contra hle
    obtain ⟨vs, hvs⟩ := unpackBytes_of_length_le (not_lt.1 hle)
    simp [hn] at hvs
  · intro hlt
    by_contra hne
    obtain ⟨⟨vs, rest⟩, hvs⟩ := Option.ne_none_iff_exists'.1 hne
    exact absurd (length_le_of_unpackBytes hvs) (not_le.2 hlt)

/-- The remainder of a payload that unpacks is its bytes behind the pattern (R163). -/
theorem unpackBytes_remainder {tags : List Tag} {p rest : List Byte} {vs : List Value}
    (h : unpackBytes tags p = some (vs, rest)) : rest = p.drop (4 * tags.length) := by
  obtain ⟨ws, hws⟩ := unpackBytes_of_length_le (length_le_of_unpackBytes h)
  rw [h] at hws
  exact (Prod.mk.inj (Option.some.inj hws)).2

/-- The loop of `UNPACK` over unconsumed bytes that unpack appends their values and completes behind them (lines U2 to U9). -/
theorem unpackScan_of_unpackBytes {tags : List Tag} {s : State} {vs : List Value} {rest : List Byte}
    (h : unpackBytes tags (s.inp.drop s.uBpos) = some (vs, rest)) :
    unpackScan tags s =
      { s with vals := s.vals ++ vs, uBpos := s.uBpos + 4 * tags.length, uIdx := s.uIdx + tags.length }.finish := by
  induction tags generalizing s vs with
  | nil =>
    obtain ⟨rfl, -⟩ : [] = vs ∧ _ := Prod.mk.inj (Option.some.inj h)
    simp [unpackScan]
  | cons g tags ih =>
    obtain ⟨b0, b1, b2, b3, q, ws, hd, hq, rfl⟩ := unpackBytes_cons_eq_some.1 h
    have hnext : s.inp.drop (s.uBpos + 4) = q := by rw [← List.drop_drop, hd]; rfl
    rw [unpackScan_cons_decoded hd, ih (vs := ws) (by simpa [Config.valueBytes, hnext] using hq)]
    simp [Config.valueBytes, Nat.mul_add, Nat.add_assoc, Nat.add_comm 1, Nat.add_comm 4]

/-- The loop of `UNPACK` raises where the pattern needs more bytes than are unconsumed, in a state of the same operation (line U3,
R164). -/
theorem unpackScan_of_truncated {tags : List Tag} {s : State} (h : s.inp.length - s.uBpos < 4 * tags.length) :
    ∃ u : State, unpackScan tags s = u.raise .truncatedPayload ∧ u.opsel = s.opsel := by
  induction tags generalizing s with
  | nil => simp at h
  | cons g tags ih =>
    by_cases hs : s.short = true
    · exact ⟨s, by rw [unpackScan, if_pos hs, unpackElem_short hs], rfl⟩
    · obtain ⟨b0, b1, b2, b3, q, hd⟩ := short_eq_false.1 (Bool.eq_false_iff.2 hs)
      have hlen := congrArg List.length hd
      rw [unpackScan_cons_decoded hd]
      apply ih
      simp only [List.length_cons, List.length_drop, Config.valueBytes] at h hlen ⊢
      omega

/-- The completion of `UNPACK` leaves the unconsumed bytes in `OUT` (line U9). -/
theorem finish_out_of_unpack {s : State} (h : s.opsel = .unpack) : s.finish.out = s.inp.drop s.uBpos := by
  simp [State.finish, h]

/-- A ready `UNPACK` of a payload that unpacks completes with the values in `VAL[]` and the remainder in `OUT`. -/
theorem exec_unpack_of_unpackBytes {s : State} {vs : List Value} {rest : List Byte} (h : s.ready .unpack)
    (hu : unpackBytes s.pat s.inp = some (vs, rest)) :
    ∃ t, exec .unpack s = .next t ∧ CompletedOk .unpack t ∧ t.vals = vs ∧ t.out = rest := by
  refine ⟨_, exec_unpack_of_ready h, ?_⟩
  rw [unpackScan_of_unpackBytes (s := s.started .unpack) (by simpa using hu)]
  refine ⟨finish_completed _, by simp, ?_⟩
  rw [finish_out_of_unpack (by simp), unpackBytes_remainder hu]
  simp

/-- A ready `UNPACK` whose pattern needs more bytes than there are ends with the error outcome, which delivers no value. -/
theorem exec_unpack_of_truncated {s : State} (h : s.ready .unpack) (hlt : s.inp.length < 4 * s.pat.length) :
    ∃ t, exec .unpack s = .next t ∧ EndedWith .truncatedPayload .unpack t := by
  obtain ⟨u, hscan, hop⟩ := unpackScan_of_truncated (s := s.started .unpack) (tags := s.pat) (by simpa using hlt)
  refine ⟨_, exec_unpack_of_ready h, ?_⟩
  rw [hscan]
  simp [EndedWith, hop]

/-- Settles O29: a payload unpacks or is too short for its pattern, and the loop of a ready `UNPACK` ends accordingly. -/
theorem unpackReadsThePattern : Obligations.UnpackReadsThePattern := by
  intro s h
  cases hu : unpackBytes s.pat s.inp with
  | none =>
    obtain ⟨t, ht, hend⟩ := exec_unpack_of_truncated h (unpackBytes_eq_none.1 hu)
    exact ⟨t, ht, fun _ _ hs => by simp at hs, fun _ => hend⟩
  | some r =>
    obtain ⟨t, ht, hok, hvals, hout⟩ := exec_unpack_of_unpackBytes h hu
    refine ⟨t, ht, fun vs rest hs => ?_, fun hn => by simp at hn⟩
    obtain rfl := Option.some.inj hs
    exact ⟨hok, hvals, hout⟩

/-- Settles O30: a payload with 4 bytes for every element unpacks, and nothing is behind a pattern that fits exactly. -/
theorem remainderIsReturned : Obligations.RemainderIsReturned := by
  intro s h hle
  obtain ⟨vs, hvs⟩ := unpackBytes_of_length_le hle
  obtain ⟨t, ht, ⟨-, -, hstatus, -, hheld, -⟩, -, hout⟩ := exec_unpack_of_unpackBytes h hvs
  exact ⟨t, ht, hstatus, hheld, hout, fun hfit => by rw [hout, List.drop_eq_nil_of_le (by omega)]⟩

end Sys2Proof.Machine
end

section
/-! Decoding and encoding agree (spec/30_encoding.md, spec/60_exceptions.md section 1, spec/44_environment_protocol.md section 4): bytes
that a code space decodes are the bytes of a well-formed instruction of that space, one lemma per space; the other direction is the
family `RoundTrip`. -/

namespace Sys2Proof

/-- These bytes of a space are the encoding of a well-formed instruction. -/
def Encodes (i : Instr) (sp : CodeSpace) (bs : List Byte) : Prop :=
  i.wellFormed = true ∧ encode i = (sp, bs)

/-- An `OPSEL` code decodes to the operation it encodes (R88). -/
theorem encodes_of_decodeOpsel {bs : List Byte} {i : Instr} (h : decodeOpsel bs = .ok i) : Encodes i .opsel bs := by
  match bs with
  | [] => simp [decodeOpsel] at h
  | [b] =>
    simp only [decodeOpsel] at h
    split_ifs at h with h0 h1 h2 h3 <;> cases h
    · exact ⟨rfl, by rw [h0]; rfl⟩
    · exact ⟨rfl, by rw [h1]; rfl⟩
    · exact ⟨rfl, by rw [h2]; rfl⟩
    · exact ⟨rfl, by rw [h3]; rfl⟩
  | _ :: _ :: _ => simp [decodeOpsel] at h

/-- A run-length byte decodes to the class it encodes, `CODE.RUN` for the bytes that have no row of their own (R72). -/
theorem encodes_of_decodeCode {bs : List Byte} {i : Instr} (h : decodeCode bs = .ok i) : Encodes i .code bs := by
  match bs with
  | [] => simp [decodeCode] at h
  | [n] =>
    simp only [decodeCode, Except.ok.injEq] at h
    split_ifs at h with h0 h1 <;> subst h
    · exact ⟨rfl, by rw [h0]; rfl⟩
    · exact ⟨rfl, by rw [h1]; rfl⟩
    · exact ⟨by simp [Instr.wellFormed, h0, h1], rfl⟩
  | _ :: _ :: _ => simp [decodeCode] at h

/-- An item's bytes decode to the item they encode (R89). -/
theorem encodes_of_decodeItem {bs : List Byte} {i : Instr} (h : decodeItem bs = .ok i) : Encodes i .item bs := by
  match bs with
  | [] => simp [decodeItem] at h
  | t :: content =>
    simp only [decodeItem] at h
    split_ifs at h with h0 h1 h2 h3
    · split at h <;> cases h
      exact ⟨rfl, by simp [encode, h0]⟩
    · split at h <;> cases h
      exact ⟨rfl, by simp [encode, h1]⟩
    · cases h
      exact ⟨rfl, by rw [h2]; rfl⟩
    · split at h <;> cases h
      exact ⟨rfl, by rw [h3]; rfl⟩

/-- A pattern tag decodes to the element it encodes (R90). -/
theorem encodes_of_decodePat {bs : List Byte} {i : Instr} (h : decodePat bs = .ok i) : Encodes i .pat bs := by
  match bs with
  | [] => simp [decodePat] at h
  | [t] =>
    simp only [decodePat] at h
    split_ifs at h with h0 h1 <;> cases h
    · exact ⟨rfl, by rw [h0]; rfl⟩
    · exact ⟨rfl, by rw [h1]; rfl⟩
  | _ :: _ :: _ => simp [decodePat] at h

/-- A `STATUS` code decodes to the row it encodes (R211). -/
theorem encodes_of_decodeStatus {bs : List Byte} {i : Instr} (h : decodeStatus bs = .ok i) : Encodes i .status bs := by
  match bs with
  | [] => simp [decodeStatus] at h
  | [b] =>
    simp only [decodeStatus] at h
    split_ifs at h with h0 h1 h2 h3 <;> cases h
    · exact ⟨rfl, by rw [h0]; rfl⟩
    · exact ⟨rfl, by rw [h1]; rfl⟩
    · exact ⟨rfl, by rw [h2]; rfl⟩
    · exact ⟨rfl, by rw [h3]; rfl⟩
  | _ :: _ :: _ => simp [decodeStatus] at h

/-- A command payload decodes to the command it encodes: its arguments are the words of the bytes behind the opcode (R79, R192). -/
theorem encodes_of_decodeEnv {bs : List Byte} {i : Instr} (h : decodeEnv bs = .ok i) : Encodes i .env bs := by
  match bs with
  | [] => simp [decodeEnv] at h
  | opcode :: args =>
    have hargs := Machine.flatMap_of_wordsLe args
    simp only [decodeEnv] at h
    split_ifs at h with h1 h2 h3 h4
    · split at h <;> cases h
      next w hw => exact ⟨rfl, by simp [encode, h1, ← hargs _ hw]⟩
    · split at h <;> cases h
      exact ⟨rfl, by rw [h2]; rfl⟩
    · split at h <;> cases h
      next hw => exact ⟨rfl, by rw [h3, ← hargs _ hw]; rfl⟩
    · split at h <;> cases h
      next w hw => exact ⟨rfl, by simp [encode, h4, ← hargs _ hw]⟩

/-- Bytes that any space decodes are the encoding of the instruction they decode to. -/
theorem encodes_of_decode {sp : CodeSpace} {bs : List Byte} {i : Instr} (h : decode sp bs = .ok i) : Encodes i sp bs := by
  cases sp with
  | opsel => exact encodes_of_decodeOpsel h
  | code => exact encodes_of_decodeCode h
  | item => exact encodes_of_decodeItem h
  | pat => exact encodes_of_decodePat h
  | status => exact encodes_of_decodeStatus h
  | env => exact encodes_of_decodeEnv h

/-- The encoding of a well-formed instruction decodes to it, in its own space. -/
theorem decode_encode {i : Instr} (h : i.wellFormed = true) : decode (encode i).1 (encode i).2 = .ok i := by
  cases i with
  | enc => exact Laws.RoundTrip.enc h
  | dec => exact Laws.RoundTrip.dec h
  | pack => exact Laws.RoundTrip.pack h
  | unpack => exact Laws.RoundTrip.unpack h
  | codeZero => exact Laws.RoundTrip.codeZero h
  | codeRun n => exact Laws.RoundTrip.codeRun n h
  | codeForced => exact Laws.RoundTrip.codeForced h
  | itemInt32 w => exact Laws.RoundTrip.itemInt32 w h
  | itemFloat32 w => exact Laws.RoundTrip.itemFloat32 w h
  | itemRawBytes s => exact Laws.RoundTrip.itemRawBytes s h
  | itemUnsupported => exact Laws.RoundTrip.itemUnsupported h
  | patInt => exact Laws.RoundTrip.patInt h
  | patFloat => exact Laws.RoundTrip.patFloat h
  | statusOk => exact Laws.RoundTrip.statusOk h
  | statusUnsupportedArgumentType => exact Laws.RoundTrip.statusUnsupportedArgumentType h
  | statusTruncatedPayload => exact Laws.RoundTrip.statusTruncatedPayload h
  | statusReserved => exact Laws.RoundTrip.statusReserved h
  | envSetMotor w => exact Laws.RoundTrip.envSetMotor w h
  | envRequestEncoder => exact Laws.RoundTrip.envRequestEncoder h
  | envSetPid kp ki kd zo mino maxo ir im => exact Laws.RoundTrip.envSetPid kp ki kd zo mino maxo ir im h
  | envSetPosition w => exact Laws.RoundTrip.envSetPosition w h

/-- Settles O54: the round trip of every row in one direction, `Encodes` for every space in the other. -/
theorem decodeAndEncodeAgree : Obligations.DecodeAndEncodeAgree :=
  ⟨fun _ h => decode_encode h, fun _ _ _ h => encodes_of_decode h⟩

/-- Settles O3: the decoder is a table, and each of these words is looked up in it. -/
theorem specWordsDecodeAsTheTablesSay : Obligations.SpecWordsDecodeAsTheTablesSay := by
  unfold Obligations.SpecWordsDecodeAsTheTablesSay
  decide

end Sys2Proof
end

section
/-! The loop of the running operation, one iteration at a time (spec/10_state.md rules R30, R33): what an iteration is, how the loop ends,
what both leave unchanged, and that the whole operation is its iterations and its end. -/

namespace Sys2Proof.Machine

/-- What an operation does not touch: the operands, the environment and the working registers of the other operations. -/
structure KeepsRest (op : Op) (s t : State) : Prop where
  operands : SameOperands s t
  surroundings : SameSurroundings s t
  otherRegs : SameOtherRegs op s t

/-- What two stretches of an operation leave unchanged, they leave unchanged together. -/
theorem KeepsRest.trans {op : Op} {s t u : State} (h : KeepsRest op s t) (k : KeepsRest op t u) : KeepsRest op s u := by
  obtain ⟨ho, hs, hr⟩ := h
  obtain ⟨ko, ks, kr⟩ := k
  refine ⟨?_, ?_, ?_⟩
  · simp_all [SameOperands]
  · simp_all [SameSurroundings]
  · cases op <;> simp_all [SameOtherRegs, SameEncRegs, SameDecRegs, SamePackRegs, SameUnpackRegs]

/-- What an iteration of the loop leaves unchanged: the rest, the control elements, and of the results all but the one that the operation
builds. -/
structure IterationKeeps (s t : State) : Prop where
  rest : KeepsRest s.opsel s t
  control : SameControl s t
  vals : s.opsel ≠ .unpack → t.vals = s.vals
  out : s.opsel = .unpack → t.out = s.out
  outHeld : t.outHeld = s.outHeld
  valsHeld : t.valsHeld = s.valsHeld

/-- One iteration of the loop of the selected operation: the element at its cursor is taken (lines E3 to E9, D2 to D8, P2 to P6, U2 to
U8). -/
inductive LoopStep (s t : State) : Prop where
  | byte (b : Byte) (ho : s.opsel = .enc) (hc : s.inp[s.eIpos]? = some b) (ht : t = encByte s b)
  | run (n : Byte) (ho : s.opsel = .dec) (hc : s.inp[s.dIpos]? = some n) (ht : t = decRun n s)
  | item (it : Item) (bs : List Byte) (ho : s.opsel = .pack) (hc : s.items[s.pIdx]? = some it)
    (hb : Item.serialise it = some bs) (ht : t = packItem it s)
  | elem (g : Tag) (ho : s.opsel = .unpack) (hc : s.pat[s.uIdx]? = some g) (hs : s.short = false) (ht : t = unpackElem g s)

/-- The end of the loop of the selected operation: completion behind the last element, or the error outcome of the element at the cursor
(lines E10 to E12, D9, P7, P9, U3, U9, U10). -/
inductive LoopEnd (s t : State) : Prop where
  | ok (hl : s.loopDone = true) (ht : t = s.finish)
  | unsupported (ho : s.opsel = .pack) (hc : s.items[s.pIdx]? = some .unsupported) (ht : t = s.raise .unsupportedArgumentType)
  | truncated (g : Tag) (ho : s.opsel = .unpack) (hc : s.pat[s.uIdx]? = some g) (hs : s.short = true)
    (ht : t = s.raise .truncatedPayload)

/-- The loop always goes on or ends. -/
theorem loop_goesOn_or_ends (s : State) : (∃ t, LoopStep s t) ∨ ∃ t, LoopEnd s t := by
  have done : s.loopDone = true → ∃ t, LoopEnd s t := fun h => ⟨_, .ok h rfl⟩
  simp only [State.loopDone] at done
  cases ho : s.opsel <;> simp only [ho, decide_eq_true_eq, ← List.getElem?_eq_none_iff] at done
  case enc =>
    cases hc : s.inp[s.eIpos]? with
    | none => exact .inr (done hc)
    | some b => exact .inl ⟨_, .byte b ho hc rfl⟩
  case dec =>
    cases hc : s.inp[s.dIpos]? with
    | none => exact .inr (done hc)
    | some n => exact .inl ⟨_, .run n ho hc rfl⟩
  case pack =>
    cases hc : s.items[s.pIdx]? with
    | none => exact .inr (done hc)
    | some it =>
      cases hb : Item.serialise it with
      | none => exact .inr ⟨_, .unsupported ho (by rw [hc, serialise_eq_none.1 hb]) rfl⟩
      | some bs => exact .inl ⟨_, .item it bs ho hc hb rfl⟩
  case unpack =>
    cases hc : s.pat[s.uIdx]? with
    | none => exact .inr (done hc)
    | some g =>
      cases hs : s.short with
      | true => exact .inr ⟨_, .truncated g ho hc hs rfl⟩
      | false => exact .inl ⟨_, .elem g ho hc hs rfl⟩

/-- A payload byte leaves everything but `OUT` and the registers of `ENC` unchanged. -/
theorem encByte_keeps {s : State} (ho : s.opsel = .enc) (b : Byte) : IterationKeeps s (encByte s b) := by
  rw [encByte_frame]
  constructor
  · constructor <;>
      simp [ho, SameOperands, SameSurroundings, SameOtherRegs, SameDecRegs, SamePackRegs, SameUnpackRegs]
  all_goals simp [ho, SameControl]

/-- A run leaves everything but `OUT` and the registers of `DEC` unchanged. -/
theorem decRun_keeps {s : State} (ho : s.opsel = .dec) (n : Byte) : IterationKeeps s (decRun n s) := by
  rw [decRun_frame]
  constructor
  · constructor <;>
      simp [ho, SameOperands, SameSurroundings, SameOtherRegs, SameEncRegs, SamePackRegs, SameUnpackRegs]
  all_goals simp [ho, SameControl]

/-- An item that has a serialisation leaves everything but `OUT` and the cursor of `PACK` unchanged. -/
theorem packItem_keeps {s : State} (ho : s.opsel = .pack) {it : Item} {bs : List Byte} (hb : Item.serialise it = some bs) :
    IterationKeeps s (packItem it s) := by
  rw [packItem_serialised hb]
  constructor
  · constructor <;>
      simp [ho, SameOperands, SameSurroundings, SameOtherRegs, SameEncRegs, SameDecRegs, SameUnpackRegs]
  all_goals simp [ho, SameControl]

/-- An element with four bytes left leaves everything but `VAL[]` and the cursors of `UNPACK` unchanged. -/
theorem unpackElem_keeps {s : State} (ho : s.opsel = .unpack) (hs : s.short = false) (g : Tag) :
    IterationKeeps s (unpackElem g s) := by
  obtain ⟨b0, b1, b2, b3, rest, hd⟩ := short_eq_false.1 hs
  rw [unpackElem_decoded hd]
  constructor
  · constructor <;>
      simp [ho, SameOperands, SameSurroundings, SameOtherRegs, SameEncRegs, SameDecRegs, SamePackRegs]
  all_goals simp [ho, SameControl]

/-- An iteration keeps what it does not build. -/
theorem LoopStep.keeps {s t : State} (h : LoopStep s t) : IterationKeeps s t := by
  cases h with
  | byte b ho _ ht => exact ht ▸ encByte_keeps ho b
  | run n ho _ ht => exact ht ▸ decRun_keeps ho n
  | item it bs ho _ hb ht => exact ht ▸ packItem_keeps ho hb
  | elem g ho _ hs ht => exact ht ▸ unpackElem_keeps ho hs g

/-- Completion leaves operands, environment and the other operations' registers unchanged. -/
theorem finish_keeps (s : State) : KeepsRest s.opsel s s.finish := by
  rw [finish_frame]
  constructor <;>
    simp +contextual [SameOperands, SameSurroundings, SameOtherRegs, SameEncRegs, SameDecRegs, SamePackRegs, SameUnpackRegs]

/-- An error outcome leaves operands, environment and the other operations' registers unchanged (R212). -/
theorem raise_keeps (s : State) (e : Status) : KeepsRest s.opsel s (s.raise e) := by
  constructor <;>
    simp +contextual [SameOperands, SameSurroundings, SameOtherRegs, SameEncRegs, SameDecRegs, SamePackRegs, SameUnpackRegs]

/-- The end of the loop keeps the rest. -/
theorem LoopEnd.keeps {s t : State} (h : LoopEnd s t) : KeepsRest s.opsel s t := by
  cases h with
  | ok _ ht => exact ht ▸ finish_keeps s
  | unsupported _ _ ht => exact ht ▸ raise_keeps s _
  | truncated _ _ _ _ ht => exact ht ▸ raise_keeps s _

/-- The completion of an operation leaves the mark of `OPSEL` as it is. -/
@[simp] theorem finish_opselHeld (s : State) : s.finish.opselHeld = s.opselHeld := by
  rw [finish_frame]
  rfl

/-- The end of the loop leaves the mark of `OPSEL` as it is. -/
theorem LoopEnd.opselHeld {s t : State} (h : LoopEnd s t) : t.opselHeld = s.opselHeld := by
  cases h <;> simp [*]

/-- An error outcome, as the statements name it. -/
theorem raise_endedWith (s : State) (e : Status) : EndedWith e s.opsel (s.raise e) :=
  ⟨rfl, rfl, rfl, rfl, rfl, rfl⟩

/-- The outcomes of an operation: `OK` of any, or its own error (R211). -/
theorem LoopEnd.outcome {s t : State} (h : LoopEnd s t) :
    CompletedOk s.opsel t ∨ s.opsel = .pack ∧ EndedWith .unsupportedArgumentType .pack t ∨
      s.opsel = .unpack ∧ EndedWith .truncatedPayload .unpack t := by
  cases h with
  | ok _ ht => exact .inl (ht ▸ finish_completed s)
  | unsupported ho _ ht => exact .inr (.inl ⟨ho, by simpa [ht, ho] using raise_endedWith s .unsupportedArgumentType⟩)
  | truncated _ ho _ _ ht => exact .inr (.inr ⟨ho, by simpa [ht, ho] using raise_endedWith s .truncatedPayload⟩)

/-! ### The whole operation -/

/-- How many elements the selected operation has still to take; a run of `DEC` takes one or more of them. -/
def State.remaining (s : State) : Nat :=
  match s.opsel with
  | .enc => s.inp.length - s.eIpos
  | .dec => s.inp.length - s.dIpos
  | .pack => s.items.length - s.pIdx
  | .unpack => s.pat.length - s.uIdx

/-- The state in which the whole loop of the selected operation ends, from here on. -/
def State.toEnd (s : State) : State :=
  match s.opsel with
  | .enc => (encScan (s.inp.drop s.eIpos) s).finish
  | .dec => (decScan (s.inp.length - s.dIpos) s).finish
  | .pack => packScan (s.items.drop s.pIdx) s
  | .unpack => unpackScan (s.pat.drop s.uIdx) s

/-- A list from an element on is that element and the list behind it. -/
theorem drop_eq_cons_of_getElem? {α : Type} {l : List α} {n : Nat} {a : α} (h : l[n]? = some a) :
    l.drop n = a :: l.drop (n + 1) := by
  obtain ⟨hlt, rfl⟩ := List.getElem?_eq_some_iff.1 h
  exact List.drop_eq_getElem_cons hlt

/-- An iteration of `DEC` takes at least the run-length byte. -/
theorem dIpos_lt_decRun (n : Byte) (s : State) : s.dIpos < (decRun n s).dIpos := by
  rw [decRun_frame]
  simp only
  omega

/-- At the end of the input the decoder's loop does nothing. -/
theorem decScan_at_end {s : State} (h : s.inp[s.dIpos]? = none) (k : Nat) : decScan k s = s := by
  cases k <;> simp [decScan, h]

/-- Iterations of the decoder beyond the unread bytes make no difference. -/
theorem decScan_enough (k k' : Nat) {s : State} (hk : s.inp.length - s.dIpos ≤ k) (hk' : s.inp.length - s.dIpos ≤ k') :
    decScan k s = decScan k' s := by
  induction k generalizing k' s with
  | zero =>
    have hc : s.inp[s.dIpos]? = none := List.getElem?_eq_none_iff.2 (by omega)
    rw [decScan_at_end hc, decScan_at_end hc]
  | succ k ih =>
    cases hc : s.inp[s.dIpos]? with
    | none => rw [decScan_at_end hc, decScan_at_end hc]
    | some n =>
      have hlt := (List.getElem?_eq_some_iff.1 hc).1
      have hinp : (decRun n s).inp = s.inp := by rw [decRun_frame]
      have hpos := dIpos_lt_decRun n s
      cases k' with
      | zero => omega
      | succ k' =>
        simp only [decScan, hc]
        exact ih k' (by rw [hinp]; omega) (by rw [hinp]; omega)

/-- An iteration leaves the rest of the whole operation to do. -/
theorem LoopStep.toEnd_eq {s t : State} (h : LoopStep s t) : t.toEnd = s.toEnd := by
  cases h with
  | byte b ho hc ht =>
    subst ht
    have hop : (encByte s b).opsel = .enc := by rw [encByte_frame]; exact ho
    have hrest : (encByte s b).inp.drop (encByte s b).eIpos = s.inp.drop (s.eIpos + 1) := by rw [encByte_frame]
    simp only [State.toEnd, ho, hop]
    rw [hrest, drop_eq_cons_of_getElem? hc, encScan_cons]
  | run n ho hc ht =>
    subst ht
    have hop : (decRun n s).opsel = .dec := by rw [decRun_frame]; exact ho
    have hinp : (decRun n s).inp = s.inp := by rw [decRun_frame]
    have hlt := (List.getElem?_eq_some_iff.1 hc).1
    have hpos := dIpos_lt_decRun n s
    obtain ⟨k, hk⟩ : ∃ k, s.inp.length - s.dIpos = k + 1 := ⟨s.inp.length - s.dIpos - 1, by omega⟩
    simp only [State.toEnd, ho, hop, hk, decScan, hc]
    rw [decScan_enough _ k le_rfl (by rw [hinp]; omega)]
  | item it bs ho hc hb ht =>
    subst ht
    rw [packItem_serialised hb]
    simp only [State.toEnd, ho, drop_eq_cons_of_getElem? hc, packScan_cons_serialised hb]
  | elem g ho hc hs ht =>
    subst ht
    obtain ⟨b0, b1, b2, b3, rest, hd⟩ := short_eq_false.1 hs
    rw [unpackElem_decoded hd]
    simp only [State.toEnd, ho, drop_eq_cons_of_getElem? hc, unpackScan_cons_decoded hd]

/-- The end of the loop is where the whole operation ends. -/
theorem LoopEnd.eq_toEnd {s t : State} (h : LoopEnd s t) : t = s.toEnd := by
  cases h with
  | ok hl ht =>
    rw [ht]
    cases ho : s.opsel <;> simp only [State.loopDone, ho, decide_eq_true_eq] at hl <;>
      simp [State.toEnd, ho, List.drop_eq_nil_of_le hl, packScan, unpackScan]
    rw [Nat.sub_eq_zero_of_le hl, decScan]
  | unsupported ho hc ht => simp [State.toEnd, ho, drop_eq_cons_of_getElem? hc, packScan, packItem, ht]
  | truncated g ho hc hs ht =>
    simp [State.toEnd, ho, drop_eq_cons_of_getElem? hc, unpackScan, hs, unpackElem_short hs, ht]

/-- An iteration leaves fewer elements to take. -/
theorem LoopStep.remaining_lt {s t : State} (h : LoopStep s t) : t.remaining < s.remaining := by
  cases h with
  | byte b ho hc ht =>
    have hlt := (List.getElem?_eq_some_iff.1 hc).1
    rw [ht, encByte_frame]
    simp only [State.remaining, ho]
    omega
  | run n ho hc ht =>
    have hlt := (List.getElem?_eq_some_iff.1 hc).1
    rw [ht, decRun_frame]
    simp only [State.remaining, ho]
    omega
  | item it bs ho hc hb ht =>
    have hlt := (List.getElem?_eq_some_iff.1 hc).1
    rw [ht, packItem_serialised hb]
    simp only [State.remaining, ho]
    omega
  | elem g ho hc hs ht =>
    have hlt := (List.getElem?_eq_some_iff.1 hc).1
    obtain ⟨b0, b1, b2, b3, rest, hd⟩ := short_eq_false.1 hs
    rw [ht, unpackElem_decoded hd]
    simp only [State.remaining, ho]
    omega

/-- What every iteration keeps holds in the state in which the loop ends. -/
theorem loop_invariant {P : State → Prop} (hP : ∀ s t, LoopStep s t → P s → P t) {s : State} (hs : P s) :
    ∃ u, P u ∧ LoopEnd u s.toEnd := by
  rcases loop_goesOn_or_ends s with ⟨t, ht⟩ | ⟨t, ht⟩
  · obtain ⟨u, hu, hend⟩ := loop_invariant hP (hP s t ht hs)
    exact ⟨u, hu, ht.toEnd_eq ▸ hend⟩
  · exact ⟨s, hs, ht.eq_toEnd ▸ ht⟩
termination_by s.remaining
decreasing_by exact ht.remaining_lt

/-- An operation answers a next state exactly when it is ready, and that is where its loop ends. -/
theorem exec_op_eq_next {s t : State} {op : Op} :
    exec (Op.instr op) s = .next t ↔ s.ready op ∧ t = (s.started op).toEnd := by
  cases op with
  | enc => exact execEnc_eq_next.trans (by simp [State.toEnd])
  | dec => exact execDec_eq_next.trans (by simp [State.toEnd])
  | pack => exact execPack_eq_next.trans (by simp [State.toEnd])
  | unpack => exact execUnpack_eq_next.trans (by simp [State.toEnd])

/-- A state inside the loop of an operation that was started from `s`. -/
structure InLoop (op : Op) (s u : State) : Prop where
  rest : KeepsRest op s u
  opsel : u.opsel = op
  opselHeld : u.opselHeld = true
  vals : op ≠ .unpack → u.vals = []

/-- The start of an operation leaves operands, environment and the other operations' registers unchanged. -/
theorem started_keeps (s : State) (op : Op) : KeepsRest op s (s.started op) := by
  constructor <;>
    simp +contextual [SameOperands, SameSurroundings, SameOtherRegs, SameEncRegs, SameDecRegs, SamePackRegs, SameUnpackRegs]

/-- Every operation starts in its loop. -/
theorem started_inLoop (s : State) (op : Op) : InLoop op s (s.started op) :=
  ⟨started_keeps s op, by simp, by simp, by simp⟩

/-- An iteration stays in the loop. -/
theorem InLoop.step {op : Op} {s u v : State} (h : InLoop op s u) (k : LoopStep u v) : InLoop op s v := by
  obtain ⟨hrest, rfl, hheld, hvals⟩ := h
  obtain ⟨krest, ⟨-, kop, kheld, -⟩, kvals, -⟩ := k.keeps
  exact ⟨hrest.trans krest, kop, kheld.trans hheld, fun hn => (kvals hn).trans (hvals hn)⟩

/-- Everything an operation can do when it answers: it is ready, and ends from a state in its loop. -/
theorem exec_op_ends {s t : State} {op : Op} (h : exec (Op.instr op) s = .next t) :
    s.ready op ∧ ∃ u, InLoop op s u ∧ LoopEnd u t := by
  obtain ⟨hr, rfl⟩ := exec_op_eq_next.1 h
  exact ⟨hr, loop_invariant (fun _ _ k hu => hu.step k) (started_inLoop s op)⟩

/-- An operation leaves operands, environment and the other operations' registers unchanged. -/
theorem exec_op_keeps {s t : State} {op : Op} (h : exec (Op.instr op) s = .next t) : KeepsRest op s t := by
  obtain ⟨-, u, ⟨hrest, rfl, -⟩, hend⟩ := exec_op_ends h
  exact hrest.trans hend.keeps

/-- The outcomes of an operation: `OK` of any, or its own error (R211). -/
theorem exec_op_outcome {s t : State} {op : Op} (h : exec (Op.instr op) s = .next t) :
    CompletedOk op t ∨ op = .pack ∧ EndedWith .unsupportedArgumentType .pack t ∨
      op = .unpack ∧ EndedWith .truncatedPayload .unpack t := by
  obtain ⟨-, u, ⟨-, rfl, -⟩, hend⟩ := exec_op_ends h
  exact hend.outcome

/-- A start writes `OPSEL`, and its mark stays. -/
theorem exec_op_opselHeld {s t : State} {op : Op} (h : exec (Op.instr op) s = .next t) : t.opselHeld = true := by
  obtain ⟨-, u, ⟨-, -, hheld, -⟩, hend⟩ := exec_op_ends h
  rw [hend.opselHeld, hheld]

/-- Settles O40: the status is that of the outcome. -/
theorem statusIsTheOperationsOwn : Obligations.StatusIsTheOperationsOwn := by
  intro s t op h
  have hheld := exec_op_opselHeld h
  rcases exec_op_outcome h with ⟨hp, hop, hst, hv, -⟩ | ⟨rfl, hp, hop, hst, hv, -⟩ | ⟨rfl, hp, hop, hst, hv, -⟩ <;>
    simp [hp, hop, hst, hv, hheld]

/-- Settles O43: the rest is kept, and `IN` is part of it. -/
theorem operationsLeaveTheRestUnchanged : Obligations.OperationsLeaveTheRestUnchanged := by
  intro s t op h
  obtain ⟨hoperands, hsurroundings, hregs⟩ := exec_op_keeps h
  exact ⟨hoperands, hsurroundings, hregs, fun a => by rw [hoperands.1]⟩

/-- An ended operation with an error has its `STATUS` to read and nothing else (R212, R214). -/
theorem EndedWith.reads {e : Status} {op : Op} {t : State} (h : EndedWith e op t) :
    t.readStatus = .ok e ∧ t.readOut = .error .noValueHeld ∧ t.readVal = .error .noValueHeld := by
  obtain ⟨-, -, rfl, hvalid, hout, hvals⟩ := h
  simp [State.readStatus, State.readOut, State.readVal, hvalid, hout, hvals]

/-- Settles O41: an outcome that is not `OK` is one of the two errors, and the operands are part of the rest. -/
theorem errorDeliversNoData : Obligations.ErrorDeliversNoData := by
  intro s t op h hne
  have hoperands := (exec_op_keeps h).operands
  rcases exec_op_outcome h with ⟨-, -, hok, -⟩ | ⟨rfl, hend⟩ | ⟨rfl, hend⟩
  · exact absurd hok hne
  all_goals
    obtain ⟨hst, hout, hvals⟩ := hend.reads
    exact ⟨by rw [hst, hend.2.2.1], hout, hvals, hoperands⟩

end Sys2Proof.Machine
end

section
/-! What holds of the working registers of a running operation (spec/10_state.md rules R23 to R28, R36; `State.workInv`) is there from its
start and kept by its iterations, so that it runs on to its end, step by step, to the state that the whole operation gives (R33, R135). -/

namespace Sys2Proof.Machine

/-- The start of an operation sets its working registers as the invariant asks. -/
theorem started_workInv (s : State) (op : Op) : (s.started op).workInv := by
  cases op <;> simp [State.workInv, Config.distInit]

/-- `ENC` has its placeholder inside `OUT` (R24). -/
theorem State.workInv.placeholder {s : State} (h : s.workInv) (ho : s.opsel = .enc) : s.ePatch < s.out.length := by
  simp only [State.workInv, ho] at h
  omega

/-- A boundary puts its placeholder where `e_patch` says, and starts the distance again. -/
theorem boundary_workInv {s : State} (ho : s.opsel = .enc) (hpos : s.eIpos ≤ s.inp.length) : (boundary s).workInv := by
  simp [boundary_eq, State.workInv, ho, hpos, Config.distInit]

/-- A payload byte keeps what holds of the registers of `ENC`. -/
theorem encByte_workInv {s : State} {b : Byte} (ho : s.opsel = .enc) (hc : s.inp[s.eIpos]? = some b) (h : s.workInv) :
    (encByte s b).workInv := by
  have hlt : s.eIpos + 1 ≤ s.inp.length := (List.getElem?_eq_some_iff.1 hc).1
  by_cases hb : b = Config.sentinel
  · rw [hb, encByte_zero]
    exact boundary_workInv ho hlt
  by_cases hd : s.eDist + 1 = Config.maxCode
  · rw [encByte_forced hb hd]
    exact boundary_workInv ho hlt
  · rw [encByte_data hb hd]
    have hpatch := h.placeholder ho
    simp only [State.workInv, ho] at h ⊢
    obtain ⟨-, hd1, hd254, hlen, hzero⟩ := h
    have hdist : (s.eDist + 1).toNat = s.eDist.toNat + 1 := by bv_omega
    have hmax : s.eDist.toNat + 1 ≠ 255 := fun he => hd (BitVec.eq_of_toNat_eq (hdist.trans he))
    exact ⟨hlt, by omega, by omega, by rw [hdist, List.length_append, List.length_singleton]; omega,
      by rw [List.getElem?_append_left hpatch, hzero]⟩

/-- An iteration keeps what holds of the working registers. -/
theorem LoopStep.workInv {s t : State} (h : LoopStep s t) (hw : s.workInv) : t.workInv := by
  cases h with
  | byte b ho hc ht => exact ht ▸ encByte_workInv ho hc hw
  | run n ho hc ht =>
    have hlt := (List.getElem?_eq_some_iff.1 hc).1
    rw [ht, decRun_frame]
    simp only [State.workInv, ho]
    omega
  | item it bs ho hc hb ht =>
    have hlt := (List.getElem?_eq_some_iff.1 hc).1
    rw [ht, packItem_serialised hb]
    simpa only [State.workInv, ho]
  | elem g ho hc hs ht =>
    have hlt := (List.getElem?_eq_some_iff.1 hc).1
    obtain ⟨b0, b1, b2, b3, rest, hd⟩ := short_eq_false.1 hs
    rw [ht, unpackElem_decoded hd]
    simp only [State.workInv, ho, List.length_append, List.length_singleton] at hw ⊢
    have hleft := congrArg List.length hd
    simp only [List.length_drop, List.length_cons, Config.valueBytes] at hleft hw ⊢
    omega

/-- A block step of a running operation is an iteration of its loop or the loop's end. -/
theorem BlockStep.loop {s t : State} (h : BlockStep s t) (hp : s.phase = .busy) : LoopStep s t ∨ LoopEnd s t := by
  cases h with
  | idle hi => simp [hp] at hi
  | byte b _ ho hc _ ht => exact .inl (.byte b ho hc ht)
  | run n _ ho hc ht => exact .inl (.run n ho hc ht)
  | item it _ ho hc ht =>
    cases hb : Item.serialise it with
    | some bs => exact .inl (.item it bs ho hc hb ht)
    | none =>
      obtain rfl := serialise_eq_none.1 hb
      exact .inr (.unsupported ho hc ht)
  | elem g _ ho hc ht =>
    cases hs : s.short with
    | false => exact .inl (.elem g ho hc hs ht)
    | true => exact .inr (.truncated g ho hc hs (ht.trans (unpackElem_short hs g)))
  | done _ hl _ ht => exact .inr (.ok hl ht)

/-- An iteration of a running operation is a step of the block. -/
theorem LoopStep.block {s t : State} (h : LoopStep s t) (hp : s.phase = .busy) (hw : s.workInv) : BlockStep s t := by
  cases h with
  | byte b ho hc ht => exact .byte b hp ho hc (hw.placeholder ho) ht
  | run n ho hc ht => exact .run n hp ho hc ht
  | item it bs ho hc hb ht => exact .item it hp ho hc ht
  | elem g ho hc hs ht => exact .elem g hp ho hc ht

/-- The end of a running operation's loop is a step of the block. -/
theorem LoopEnd.block {s t : State} (h : LoopEnd s t) (hp : s.phase = .busy) (hw : s.workInv) : BlockStep s t := by
  cases h with
  | ok hl ht => exact .done hp hl hw.placeholder ht
  | unsupported ho hc ht => exact .item .unsupported hp ho hc ht
  | truncated g ho hc hs ht => exact .elem g hp ho hc (ht.trans (unpackElem_short hs g).symm)

/-- The end of the loop leaves the block idle. -/
theorem LoopEnd.idle {s t : State} (h : LoopEnd s t) : t.phase = .idle := by
  rcases h.outcome with h | ⟨-, h⟩ | ⟨-, h⟩ <;> exact h.1

/-- The end of the loop leaves the operation selected. -/
theorem LoopEnd.opsel {s t : State} (h : LoopEnd s t) : t.opsel = s.opsel := by
  rcases h.outcome with h | ⟨ho, h⟩ | ⟨ho, h⟩
  · exact h.2.1
  · exact h.2.1.trans ho.symm
  · exact h.2.1.trans ho.symm

/-- A whole operation ends idle. -/
theorem toEnd_idle (s : State) : s.toEnd.phase = .idle := by
  obtain ⟨u, -, hend⟩ := loop_invariant (P := fun _ => True) (fun _ _ _ _ => trivial) (s := s) trivial
  exact hend.idle

/-- Whether the environment waits is told by its pending actions. -/
theorem State.waiting.of_cmds {s t : State} (h : s.waiting) (hc : t.cmds = s.cmds) : t.waiting := by
  rwa [State.waiting, hc]

/-- While an operation runs and the environment waits, the steps are the block's own. -/
theorem step_running {s t : State} (hw : s.waiting) (hp : s.phase = .busy) : step s = .next t ↔ BlockStep s t :=
  step_block (fetch_waiting hw hp)

/-- A running operation that is left alone runs to its end, in at most one step for each element and one more (R33). -/
theorem run_toEnd {s : State} (hp : s.phase = .busy) (hw : s.waiting) (hi : s.workInv) :
    ∃ k ≤ s.remaining + 1, State.run k s = .next s.toEnd := by
  rcases loop_goesOn_or_ends s with ⟨t, ht⟩ | ⟨t, ht⟩
  · have hstep : step s = .next t := (step_running hw hp).2 (ht.block hp hi)
    obtain ⟨hrest, ⟨hphase, -⟩, -⟩ := ht.keeps
    have hcmds : t.cmds = s.cmds := hrest.surroundings.2.1
    have hlt := ht.remaining_lt
    obtain ⟨k, hk, hrun⟩ := run_toEnd (hphase.trans hp) (hw.of_cmds hcmds) (ht.workInv hi)
    exact ⟨k + 1, by omega, by rw [State.run, hstep, andThen_next, hrun, ht.toEnd_eq]⟩
  · have hstep : step s = .next t := (step_running hw hp).2 (ht.block hp hi)
    exact ⟨1, by omega, by rw [State.run, hstep, andThen_next, State.run, ht.eq_toEnd]⟩
termination_by s.remaining

/-- Settles O57: the first step starts the operation, and the steps behind it end where its whole loop ends. -/
theorem steppedOperationIsTheWholeOperation : Obligations.SteppedOperationIsTheWholeOperation := by
  intro s bits rest hc hr hw
  have hready : State.ready { s with cmds := rest } (Op.ofBits bits) := hr
  have hstart : step s = .next (State.started { s with cmds := rest } (Op.ofBits bits)) := by
    rw [step, fetch_act hc (.inr rfl)]
    exact startOp_of_ready hready
  obtain ⟨k, -, hrun⟩ := run_toEnd (s := State.started { s with cmds := rest } (Op.ofBits bits)) (by simp)
    (hw.of_cmds (by simp)) (started_workInv _ _)
  exact ⟨k + 1, _, by rw [State.run, hstart, andThen_next, hrun], exec_op_eq_next.2 ⟨hready, rfl⟩⟩

/-- The elements to take are not more than the operands have. -/
theorem remaining_le (s : State) : s.remaining ≤ s.inp.length + s.items.length + s.pat.length := by
  cases ho : s.opsel <;> simp only [State.remaining, ho] <;> omega

/-- Settles O58: a running operation that is left alone runs to its end, and is idle there. -/
theorem everyOperationEnds : Obligations.EveryOperationEnds := by
  rintro s ⟨-, -, hbusy⟩ hp hw
  obtain ⟨k, hk, hrun⟩ := run_toEnd hp hw (hbusy hp).2.2
  have := remaining_le s
  exact ⟨k, _, by omega, hrun, toEnd_idle s⟩

/-- Settles O59: such a step is an iteration of the loop or its end, and both keep the rest. -/
theorem runningBlockTouchesOnlyItsOwnState : Obligations.RunningBlockTouchesOnlyItsOwnState := by
  rintro s t op ⟨hp, rfl, hw⟩ hstep
  rcases ((step_running hw hp).1 hstep).loop hp with h | h
  · obtain ⟨⟨hoperands, hsurroundings, hregs⟩, ⟨-, hop, -⟩, -⟩ := h.keeps
    exact ⟨hoperands, hsurroundings, hregs, hop⟩
  · obtain ⟨hoperands, hsurroundings, hregs⟩ := h.keeps
    exact ⟨hoperands, hsurroundings, hregs, h.opsel⟩

/-- Settles O39: the cursor is inside its operand, and at the end of the loop not before its end. -/
theorem cursorsEndAtTheOperandsEnd : Obligations.CursorsEndAtTheOperandsEnd := by
  rintro s ⟨-, -, hbusy⟩ hp hl
  obtain ⟨-, -, hw⟩ := hbusy hp
  cases ho : s.opsel <;> simp only [State.loopDone, State.workInv, ho, decide_eq_true_eq, Config.valueBytes] at hl hw <;>
    simp only [reduceCtorEq, false_implies, true_implies, true_and, and_true] <;> omega

end Sys2Proof.Machine
end

section
/-! What the machine takes (spec/10_state.md rules R30, R31, R41) and refuses (R37, R40, spec/60_exceptions.md rules R211, R219): the
obligations that look at one step or one start. -/

namespace Sys2Proof.Machine

/-- The two bits of `OPSEL` decode to the operation they select (R88). -/
theorem decode_opsel (bits : BitVec 2) : decode .opsel [bits.setWidth 8] = .ok (Op.instr (Op.ofBits bits)) := by
  revert bits
  decide

/-- A start runs the selected operation. -/
theorem step_start {s : State} {bits : BitVec 2} {rest : List EnvAction} (h : s.cmds = .start bits :: rest) :
    step s = exec (Op.instr (Op.ofBits bits)) { s with cmds := rest } := by
  simp only [step, fetch_start h, decode_opsel]

/-- A command runs when the block is idle. -/
theorem step_command {s : State} {bs : List Byte} {rest : List EnvAction} {i : Instr} (h : s.cmds = .command bs :: rest)
    (hi : s.phase = .idle) (hd : decode .env bs = .ok i) : step s = exec i { s with cmds := rest } := by
  simp only [step, fetch_command h hi, hd]

/-- An action of the environment runs when the block is idle or the action does not wait. -/
theorem step_act {s : State} {a : EnvOp} {rest : List EnvAction} (h : s.cmds = .act a :: rest)
    (hi : s.phase = .idle ∨ EnvAction.waits (.act a) = false) : step s = runEnvOp a { s with cmds := rest } := by
  simp only [step, fetch_act h hi]

/-- The element at the cursor runs in place. -/
theorem step_instr {s : State} {sp : CodeSpace} {bs : List Byte} {i : Instr} (hw : s.waiting) (hp : s.phase = .busy)
    (hf : fetchBlock s = .instr sp bs) (hd : decode sp bs = .ok i) : step s = exec i s := by
  simp only [step, fetch_waiting hw hp, hf, hd]

/-- At the end of its loop a running operation meets its completion. -/
theorem fetchBlock_done {s : State} (hp : s.phase = .busy) (hl : s.loopDone = true) :
    fetchBlock s = .instr .status (Status.bytes .ok) := by
  cases ho : s.opsel <;> simp only [State.loopDone, ho, decide_eq_true_eq] at hl <;> simp [fetchBlock, hp, ho, hl]

/-- Settles O4: what a step takes is decoded and run. -/
theorem stepRunsTheDecodedInstruction : Obligations.StepRunsTheDecodedInstruction := by
  refine ⟨?start, ?command, ?code, ?item, ?element, ?short, ?done⟩
  case start =>
    intro s bits rest i hc hd
    rw [step_start hc, Except.ok.inj ((decode_opsel bits).symm.trans hd)]
  case command => exact fun s bs rest i hc hp hd => step_command hc hp hd
  case code =>
    rintro s n i ⟨hp, ho, hw⟩ hc hd
    exact step_instr hw hp (by simp only [fetchBlock, hp, ho, hc]) hd
  case item =>
    rintro s it i ⟨hp, ho, hw⟩ hc hd
    exact step_instr hw hp (by simp only [fetchBlock, hp, ho, hc]) hd
  case element =>
    rintro s g i ⟨hp, ho, hw⟩ hc hs hd
    exact step_instr hw hp (by simp [fetchBlock, hp, ho, hc, hs]) hd
  case short =>
    rintro s g ⟨hp, ho, hw⟩ hc hs
    exact step_instr hw hp (by simp only [fetchBlock, hp, ho, hc, hs, if_true]) decode_statusBytes_truncated
  case done =>
    rintro s op ⟨hp, -, hw⟩ hl
    exact step_instr hw hp (fetchBlock_done hp hl) decode_statusBytes_ok

/-- Settles O5: the row of the code that is never produced is a refusal. -/
theorem reservedStatusIsRefused : Obligations.ReservedStatusIsRefused :=
  fun _ => rfl

/-- An operation whose start is refused is refused. -/
theorem exec_op_refused {s : State} {op : Op} {r : Refusal} (h : s.startOp op = .refused r) :
    exec (Op.instr op) s = .refused r := by
  cases op <;> simp [Op.instr, exec, execEnc, execDec, execPack, execUnpack, h]

/-- Settles O6: a start and an operand write look at `PHASE` first. -/
theorem misuseWhileBusyIsRefused : Obligations.MisuseWhileBusyIsRefused := by
  intro s hp
  have refused : ∀ (rest : List EnvAction) (op : Op),
      exec (Op.instr op) { s with cmds := rest } = .refused .startWhileBusy :=
    fun rest op => exec_op_refused (startOp_busy (s := { s with cmds := rest }) hp op)
  refine ⟨refused s.cmds, fun bits rest hc => ?_, fun bs rest hc => ?_, fun items rest hc => ?_, fun tags rest hc => ?_⟩
  · rw [step_start hc, refused]
  · rw [step_act hc (.inr rfl)]
    exact if_pos hp
  · rw [step_act hc (.inr rfl)]
    exact if_pos hp
  · rw [step_act hc (.inr rfl)]
    exact if_pos hp

/-- A start of an idle block whose operands have not all been written is refused (R37). -/
theorem startOp_unwritten {s : State} {op : Op} (hi : s.phase = .idle) (h : s.operandsHeld op = false) :
    s.startOp op = .refused .operandUnwritten := by
  simp [State.startOp, hi, h]

/-- A start of an idle block whose operands or result do not fit is refused (R58). -/
theorem startOp_exceeded {s : State} {op : Op} (hi : s.phase = .idle) (h : s.operandsHeld op = true)
    (hc : s.capacityOk op = false) : s.startOp op = .refused .capacityExceeded := by
  simp [State.startOp, hi, h, hc]

/-- Settles O7: the start looks at the marks of the operands that the operation uses (R56). -/
theorem unwrittenOperandIsRefused : Obligations.UnwrittenOperandIsRefused := by
  intro s hi
  have refused : ∀ op, s.operandsHeld op = false → exec (Op.instr op) s = .refused .operandUnwritten :=
    fun op h => exec_op_refused (startOp_unwritten hi h)
  refine ⟨fun h => ⟨refused .enc h, refused .dec h⟩, fun h => refused .pack h, fun h => refused .unpack ?_⟩
  exact Bool.and_eq_false_iff.2 h

/-- Settles O1: a reset does not wait for the block. -/
theorem resetLeavesIdleWithoutResult : Obligations.ResetLeavesIdleWithoutResult := by
  refine ⟨rfl, rfl, fun s rest hc => ⟨State.resetBlock { s with cmds := rest }, step_act hc (.inr rfl), ?_⟩⟩
  simp [State.reset, SameSurroundings]

/-- A read of `OPSEL` answers exactly once it has been written, and records it. -/
theorem runEnvOp_readOpsel {s t : State} :
    runEnvOp .readOpsel s = .next t ↔ s.opselHeld = true ∧ t = s.record (.opsel s.opsel) := by
  cases h : s.opselHeld <;> simp [runEnvOp, State.readOpsel, h, eq_comm]

/-- A read of `STATUS` answers exactly while a result is valid, and records it. -/
theorem runEnvOp_readStatus {s t : State} :
    runEnvOp .readStatus s = .next t ↔ s.resultValid = true ∧ t = s.record (.status s.status) := by
  cases h : s.resultValid <;> simp [runEnvOp, State.readStatus, h, eq_comm]

/-- A read of `OUT` answers exactly while it holds a value of a valid result, and records it. -/
theorem runEnvOp_readOut {s t : State} :
    runEnvOp .readOut s = .next t ↔ (s.resultValid = true ∧ s.outHeld = true) ∧ t = s.record (.out s.out) := by
  cases h : s.resultValid <;> cases ho : s.outHeld <;> simp [runEnvOp, State.readOut, h, ho, eq_comm]

/-- A read of `VAL[]` answers exactly while it holds a value of a valid result, and records it. -/
theorem runEnvOp_readVal {s t : State} :
    runEnvOp .readVal s = .next t ↔ (s.resultValid = true ∧ s.valsHeld = true) ∧ t = s.record (.vals s.vals) := by
  cases h : s.resultValid <;> cases ho : s.valsHeld <;> simp [runEnvOp, State.readVal, h, ho, eq_comm]

/-- Settles O9: the marks are what the invariant says they are. -/
theorem resultsAreReadOnlyWhenValid : Obligations.ResultsAreReadOnlyWhenValid := by
  rintro s ⟨⟨-, hout, hvals, -⟩, -⟩
  refine ⟨?_, ?_, ?_, ?_, fun t ht => (runEnvOp_readStatus.1 ht).2, fun t ht => (runEnvOp_readOut.1 ht).2,
    fun t ht => (runEnvOp_readVal.1 ht).2, fun t ht => (runEnvOp_readOpsel.1 ht).2⟩
  · simp [runEnvOp_readStatus]
  · simp [runEnvOp_readOut, hout]
  · simp [runEnvOp_readVal, hvals, and_assoc]
  · simp [runEnvOp_readOpsel]

end Sys2Proof.Machine
end

section
/-! The four commands (spec/44_environment_protocol.md section 4): a command in its domain is one transaction, whose opcode and packed
arguments are the payload that it encodes to. -/

namespace Sys2Proof.Machine

/-- A single item packs to its serialisation. -/
theorem packBytes_singleton {it : Item} {bs : List Byte} (h : Item.serialise it = some bs) : packBytes [it] = some bs := by
  simp [packBytes, h]

/-- Float32 items pack to the bytes of their words, in order (R197). -/
theorem packBytes_map_float32 (ws : List Word) : packBytes (ws.map .float32) = some (ws.flatMap le32) := by
  induction ws with
  | nil => rfl
  | cons w ws ih => exact packBytes_cons_eq_some.2 ⟨le32 w, _, rfl, ih, rfl⟩

/-- A command is in its domain: a motor speed is in [-255, 255], and nothing is asked of the others (R194). -/
def InDomain (i : Instr) : Prop :=
  ∀ w, i = .envSetMotor w → -255 ≤ sint32 w ∧ sint32 w ≤ 255

/-- The pattern of the reply that a command waits for; `none` for a command without reply (R193, R196 to R198). -/
def replyPattern : Instr → Option (List Tag)
  | .envRequestEncoder | .envSetPosition _ => some [.int]
  | _ => none

/-- The motor's domain check (R194). -/
theorem motorSpeedOk_eq_true {w : Word} : motorSpeedOk w = true ↔ -255 ≤ sint32 w ∧ sint32 w ≤ 255 := by
  simp [motorSpeedOk]

/-- `SetMotor` in its domain is a transaction (R193). -/
theorem exec_setMotor_inside {w : Word} (h : -255 ≤ sint32 w ∧ sint32 w ≤ 255) (s : State) :
    exec (.envSetMotor w) s = transact (1 :: le32 w) 1 [.int32 w] none s :=
  if_neg (by simp [motorSpeedOk_eq_true.2 h])

/-- `SetMotor` outside its domain answers `BadCommand` at once (R194, R195). -/
theorem exec_setMotor_outside {w : Word} (h : ¬(-255 ≤ sint32 w ∧ sint32 w ≤ 255)) (s : State) :
    exec (.envSetMotor w) s = .next (s.deliver (.badCommand [.int32 w])) :=
  if_pos (Bool.eq_false_iff.2 (mt motorSpeedOk_eq_true.1 h))

/-- A command in its domain is a transaction of the payload that it encodes to: its opcode and its packed arguments (R191, R192). -/
theorem exec_command {i : Instr} {payload : List Byte} (h : encode i = (.env, payload)) (hd : InDomain i) :
    ∃ opcode items p, payload = opcode :: p ∧ packBytes items = some p ∧
      ∀ s, exec i s = transact payload opcode items (replyPattern i) s := by
  cases i <;> simp only [encode, Prod.mk.injEq, reduceCtorEq, false_and, true_and] at h <;> subst h
  case envSetMotor w => exact ⟨1, [.int32 w], _, rfl, packBytes_singleton rfl, exec_setMotor_inside (hd w rfl)⟩
  case envRequestEncoder => exact ⟨2, [], _, rfl, rfl, fun _ => rfl⟩
  case envSetPid kp ki kd zo mino maxo ir im => exact ⟨3, _, _, rfl, packBytes_map_float32 _, fun _ => rfl⟩
  case envSetPosition w => exact ⟨4, [.int32 w], _, rfl, packBytes_singleton rfl, fun _ => rfl⟩

/-- Everything that an instruction of the command space is: `SetMotor` outside its domain, or a transaction. -/
theorem exec_env_cases {i : Instr} {payload : List Byte} (h : decode .env payload = .ok i) :
    (∃ args, ∀ s, exec i s = .next (s.deliver (.badCommand args))) ∨
      ∃ opcode items, ∀ s, exec i s = transact payload opcode items (replyPattern i) s := by
  by_cases hd : InDomain i
  · obtain ⟨opcode, items, -, -, -, hexec⟩ := exec_command (encodes_of_decode h).2 hd
    exact .inr ⟨opcode, items, hexec⟩
  · simp only [InDomain, not_forall] at hd
    obtain ⟨w, rfl, hd⟩ := hd
    exact .inl ⟨_, exec_setMotor_outside hd⟩

/-- Settles O45: outside its domain `SetMotor` gives the argument list back and nothing else. -/
theorem setMotorChecksItsDomain : Obligations.SetMotorChecksItsDomain :=
  fun s w h => ⟨_, exec_setMotor_outside (by omega) s, rfl⟩

end Sys2Proof.Machine
end

section
/-! Everything a step does is a sequence of a few kinds of change: an iteration or the end of a running operation, a whole operation, a
start, an operand write, a reset, or a change of the environment. What each of these keeps, every step keeps: the invariant
(spec/10_state.md), the parameters and what was sent, read and given back (spec/00_scope.md rule R8, spec/44_environment_protocol.md rule
R181). -/

namespace Sys2Proof.Machine

/-- A change of the environment: of the block nothing changes, what has been read, given back and sent grows at its end, and of the arrived
bytes a front part is taken. -/
structure EnvChange (s t : State) : Prop where
  block : t = { s with
    fresh := t.fresh
    cmds := t.cmds
    readings := t.readings
    calls := t.calls
    chanOpen := t.chanOpen
    chanLocked := t.chanLocked
    tx := t.tx
    rx := t.rx }
  readings : s.readings <+: t.readings
  calls : s.calls <+: t.calls
  tx : s.tx <+: t.tx
  rx : t.rx <:+ s.rx

/-- The kinds of change that a step is made of. -/
inductive Change (s t : State) : Prop where
  | iteration (hp : s.phase = .busy) (h : LoopStep s t)
  | ending (hp : s.phase = .busy) (h : LoopEnd s t)
  | operation (op : Op) (h : exec (Op.instr op) s = .next t)
  | start (op : Op) (h : s.ready op) (ht : t = s.started op)
  | operands (hp : s.phase = .idle)
    (ht : t = { s with
      inp := t.inp
      inpHeld := t.inpHeld
      items := t.items
      itemsHeld := t.itemsHeld
      pat := t.pat
      patHeld := t.patHeld })
  | reset (ht : t = s.resetBlock)
  | env (h : EnvChange s t)

/-- A sequence of changes. -/
abbrev Changes : State → State → Prop := Relation.ReflTransGen Change

/-- One change of the environment is a sequence. -/
theorem EnvChange.changes {s t : State} (h : EnvChange s t) : Changes s t := .single (.env h)

/-- Taking the next action of the environment, or putting others in its place. -/
theorem cmds_envChange (s : State) (cmds : List EnvAction) : EnvChange s { s with cmds := cmds } :=
  ⟨rfl, by simp, by simp, by simp, by simp⟩

/-! The named updates of the environment, and what a gap and a read of the transport do. -/

theorem push_envChange (s : State) (a : EnvAction) : EnvChange s (s.push a) :=
  ⟨rfl, by simp, by simp, by simp, by simp⟩

theorem deliver_envChange (s : State) (r : CallResult) : EnvChange s (s.deliver r) :=
  ⟨rfl, by simp, by simp, by simp, by simp⟩

theorem record_envChange (s : State) (r : Reading) : EnvChange s (s.record r) :=
  ⟨rfl, by simp, by simp, by simp, by simp⟩

theorem release_envChange (s : State) (e : Bool) : EnvChange s (s.release e) :=
  ⟨rfl, by simp, by simp, by simp, by simp⟩

theorem lock_envChange (s : State) (l : Bool) : EnvChange s { s with chanLocked := l } :=
  ⟨rfl, by simp, by simp, by simp, by simp⟩

theorem gap_envChange (s : State) : EnvChange s s.gap := by
  rw [gap_keeps]
  exact ⟨rfl, by simp, by simp, by simp, by simp⟩

theorem readBytes_envChange (s : State) : EnvChange s s.readBytes.2 := by
  have hrx := readBytes_suffix s
  rw [readBytes_keeps]
  exact ⟨rfl, by simp, by simp, by simp, hrx⟩

/-- Writing to the transport, whatever part of the data is written. -/
theorem written_envChange (s : State) (n : Nat) (bs : List Byte) : EnvChange s { s with fresh := n, tx := s.tx ++ bs } :=
  ⟨rfl, by simp, by simp, by simp, by simp⟩

/-- A write to the transport goes on as it ended. -/
theorem sendBytes_changes {sent failed : State → State} (hs : ∀ s, Changes s (sent s)) (hf : ∀ s, Changes s (failed s))
    (s : State) (bs : List Byte) : Changes s (s.sendBytes bs sent failed) := by
  rcases sendBytes_cases s bs sent failed with ⟨n, h⟩ | ⟨-, n, k, h⟩ <;> rw [h]
  · exact (written_envChange s n bs).changes.trans (hs _)
  · exact (written_envChange s n (bs.take k)).changes.trans ((deliver_envChange _ _).changes.trans (hf _))

/-- An operand write of the idle block. -/
theorem operands_changes {s : State} (hp : s.phase = .idle) (inp : List Byte) (items : List Item) (pat : List Tag)
    (hinp hitems hpat : Bool) :
    Changes s { s with inp := inp, inpHeld := hinp, items := items, itemsHeld := hitems, pat := pat, patHeld := hpat } :=
  .single (.operands hp rfl)

/-- A whole operation. -/
theorem operation_changes {s t : State} (op : Op) (h : exec (Op.instr op) s = .next t) : Changes s t :=
  .single (.operation op h)

/-- `SENDFRAME` is operand writes, operations and changes of the environment. -/
theorem sendFrame_changes {opcode : Byte} {items : List Item} {sent failed : State → State}
    (hs : ∀ s, Changes s (sent s)) (hf : ∀ s, Changes s (failed s)) {s t : State}
    (h : sendFrame opcode items sent failed s = .next t) : Changes s t := by
  obtain ⟨hp, u, hu, h⟩ := sendFrame_eq_next.1 h
  have hsu : Changes s u := (operands_changes hp s.inp items s.pat _ true _).trans (operation_changes .pack hu)
  rcases h with ⟨-, v, -, -, hup, hv, -, -, rfl⟩ | ⟨-, rfl⟩
  · have huv : Changes u v := (operands_changes hup _ u.items u.pat true _ _).trans (operation_changes .enc hv)
    exact hsu.trans (huv.trans (sendBytes_changes hs hf _ _))
  · exact hsu.trans ((deliver_envChange _ _).changes.trans (hf _))

/-- What a command does when its frame is sent is a change of the environment. -/
theorem commandSent_changes (reply : Option (List Tag)) (s : State) : Changes s (s.commandSent reply) := by
  cases reply with
  | none => exact (release_envChange s false).changes.trans (deliver_envChange _ _).changes
  | some tags => exact (push_envChange s _).changes

/-- A transaction is changes of the environment and a `SENDFRAME`. -/
theorem transact_changes {payload : List Byte} {opcode : Byte} {items : List Item} {reply : Option (List Tag)} {s t : State}
    (h : transact payload opcode items reply s = .next t) : Changes s t := by
  have hlock : Changes s (State.gap { s with chanLocked := true }) :=
    (lock_envChange s true).changes.trans (gap_envChange _).changes
  obtain ⟨-, ⟨-, rfl⟩ | ⟨-, rfl⟩ | h⟩ := transact_eq_next h
  · exact (push_envChange s _).changes
  · exact hlock.trans (deliver_envChange _ _).changes
  · exact hlock.trans ((gap_envChange _).changes.trans
      (sendFrame_changes (commandSent_changes reply) (fun s => (release_envChange s true).changes) h))

/-- What a read of the transport leaves, whatever it returned. -/
theorem gap_readBytes_changes {s s1 : State} {r : Received} (h : s.gap.readBytes = (r, s1)) : Changes s s1 := by
  have hs1 : s.gap.readBytes.2 = s1 := by rw [h]
  exact hs1 ▸ (gap_envChange s).changes.trans (readBytes_envChange _).changes

/-- A read of the transport leaves the block as it is. -/
theorem gap_readBytes_phase {s s1 : State} {r : Received} (h : s.gap.readBytes = (r, s1)) : s1.phase = s.phase := by
  have hs1 : s.gap.readBytes.2 = s1 := by rw [h]
  rw [← hs1, readBytes_keeps, gap_keeps]

/-- A read with a pattern is changes of the environment, operand writes and operations. -/
theorem receiveValues_changes {again : EnvOp} {tags : List Tag} {ended : Bool → State → State}
    (he : ∀ e s, Changes s (ended e s)) {s t : State} (h : receiveValues again tags ended s = .next t) : Changes s t := by
  obtain ⟨hp, ⟨s1, hr, rfl⟩ | ⟨s1, hr, rfl⟩ | ⟨f, s1, u, v, hr, hu, -, -, hup, hv, rfl⟩⟩ := receiveValues_eq_next h
  · exact (gap_readBytes_changes hr).trans (push_envChange _ _).changes
  · exact (gap_readBytes_changes hr).trans ((deliver_envChange _ _).changes.trans (he _ _))
  · have hs1u : Changes s1 u :=
      (operands_changes ((gap_readBytes_phase hr).trans hp) f s1.items s1.pat true _ _).trans (operation_changes .dec hu)
    have huv : Changes u v := (operands_changes hup u.out u.items tags true _ true).trans (operation_changes .unpack hv)
    exact (gap_readBytes_changes hr).trans (hs1u.trans (huv.trans ((deliver_envChange _ _).changes.trans (he _ _))))

/-- A read to the caller is a change of the environment. -/
theorem readToCaller_changes (s : State) : Changes s (readToCaller s) := by
  unfold readToCaller
  split
  · next hr => exact (gap_readBytes_changes hr).trans (record_envChange _ _).changes
  · next hr => exact (gap_readBytes_changes hr).trans (deliver_envChange _ _).changes
  · next hr => exact (gap_readBytes_changes hr).trans (push_envChange _ _).changes

/-- An action of the environment is a sequence of changes. -/
theorem runEnvOp_changes {a : EnvOp} {s t : State} (h : runEnvOp a s = .next t) : Changes s t := by
  have next : ∀ {u : State}, Host.Outcome.next u = (Host.Outcome.next t : Outcome State Fault Refusal) → Changes s u →
      Changes s t := by
    rintro u hu k
    cases hu
    exact k
  have skip : ∀ s : State, Changes s (id s) := fun _ => .refl
  cases a with
  | await => exact next h .refl
  | writeIn bs =>
    obtain ⟨hp, rfl⟩ := writeIn_eq_next.1 h
    exact .single (.operands hp rfl)
  | writeItems items =>
    obtain ⟨hp, rfl⟩ := writeItems_eq_next.1 h
    exact .single (.operands hp rfl)
  | writePat tags =>
    obtain ⟨hp, rfl⟩ := writePat_eq_next.1 h
    exact .single (.operands hp rfl)
  | beginOp bits =>
    obtain ⟨hr, rfl⟩ := startOp_eq_next.1 h
    exact .single (.start _ hr rfl)
  | readOpsel => exact (runEnvOp_readOpsel.1 h).2 ▸ (record_envChange s _).changes
  | readPhase => exact next h (record_envChange s _).changes
  | readResultValid => exact next h (record_envChange s _).changes
  | readStatus => exact (runEnvOp_readStatus.1 h).2 ▸ (record_envChange s _).changes
  | readOut => exact (runEnvOp_readOut.1 h).2 ▸ (record_envChange s _).changes
  | readVal => exact (runEnvOp_readVal.1 h).2 ▸ (record_envChange s _).changes
  | outToIn front =>
    obtain ⟨-, -, hp, rfl⟩ := outToIn_eq_next.1 h
    exact .single (.operands hp rfl)
  | writeBytes bs => exact next h (sendBytes_changes skip skip s bs)
  | readBytes => exact next h (readToCaller_changes s)
  | transmit =>
    obtain ⟨-, -, rfl⟩ := transmit_eq_next.1 h
    exact sendBytes_changes skip skip s _
  | receive =>
    obtain ⟨hp, ⟨s1, hr, rfl⟩ | ⟨s1, hr, rfl⟩ | ⟨f, s1, hr, hn⟩⟩ := readFrame_eq_next.1 h
    · exact (gap_readBytes_changes hr).trans (push_envChange _ _).changes
    · exact (gap_readBytes_changes hr).trans (deliver_envChange _ _).changes
    · cases hn
      exact (gap_readBytes_changes hr).trans (.single (.operands ((gap_readBytes_phase hr).trans hp) rfl))
  | sendFrame opcode items => exact sendFrame_changes skip skip h
  | recvVals tags => exact receiveValues_changes (fun _ _ => .refl) h
  | reply tags => exact receiveValues_changes (fun e s => (release_envChange s e).changes) h
  | isOpen => exact next h (record_envChange s _).changes
  | close => exact next h (EnvChange.changes ⟨rfl, by simp, by simp, by simp, by simp⟩)
  | openChannel => exact next h (EnvChange.changes ⟨rfl, by simp, by simp, by simp, by simp⟩)
  | reset => exact next h (.single (.reset rfl))

/-- An idle block does nothing of its own. -/
theorem BlockStep.of_idle {s t : State} (h : BlockStep s t) (hp : s.phase = .idle) : t = s := by
  cases h <;> simp_all

/-- Everything a step does is a sequence of changes. -/
theorem step_changes {s t : State} (h : step s = .next t) : Changes s t := by
  rcases fetch_cases s with hf | ⟨rest, ⟨bits, hc, -⟩ | ⟨payload, hc, hf⟩ | ⟨a, hc, hf⟩⟩
  · have hb := (step_block hf).1 h
    cases hp : s.phase with
    | idle => exact hb.of_idle hp ▸ .refl
    | busy => exact (hb.loop hp).elim (fun k => .single (.iteration hp k)) fun k => .single (.ending hp k)
  · rw [step_start hc] at h
    exact (cmds_envChange s rest).changes.trans (operation_changes _ h)
  · simp only [step, hf] at h
    split at h
    · next i hd =>
      refine (cmds_envChange s rest).changes.trans ?_
      rcases exec_env_cases hd with ⟨args, hexec⟩ | ⟨opcode, items, hexec⟩ <;> rw [hexec] at h
      · cases h
        exact (deliver_envChange _ _).changes
      · exact transact_changes h
    · cases h
  · simp only [step, hf] at h
    exact (cmds_envChange s rest).changes.trans (runEnvOp_changes h)

end Sys2Proof.Machine
end

section
/-! What every step keeps: each kind of change keeps it. -/

namespace Sys2Proof.Machine

/-- The parameters stay; what was sent, read and given back grows at its end; of the arrived bytes a front part is taken. -/
structure Grows (s t : State) : Prop where
  params : t.params = s.params
  tx : s.tx <+: t.tx
  readings : s.readings <+: t.readings
  calls : s.calls <+: t.calls
  rx : t.rx <:+ s.rx

/-- Nothing is taken back by two changes of which neither takes anything back. -/
theorem Grows.trans {s t u : State} (h : Grows s t) (k : Grows t u) : Grows s u :=
  ⟨k.params.trans h.params, h.tx.trans k.tx, h.readings.trans k.readings, h.calls.trans k.calls, k.rx.trans h.rx⟩

/-- Where the environment is unchanged, nothing is taken back. -/
theorem SameSurroundings.grows {s t : State} (h : SameSurroundings s t) : Grows s t := by
  obtain ⟨hparams, -, hreadings, hcalls, -, -, htx, hrx⟩ := h
  exact ⟨hparams, by rw [htx], by rw [hreadings], by rw [hcalls], by rw [hrx]⟩

/-- No change takes anything back. -/
theorem Change.grows {s t : State} (h : Change s t) : Grows s t := by
  cases h with
  | iteration _ h => exact h.keeps.rest.surroundings.grows
  | ending _ h => exact h.keeps.surroundings.grows
  | operation op h => exact (exec_op_keeps h).surroundings.grows
  | start op _ ht => exact ht ▸ (started_keeps s op).surroundings.grows
  | operands _ ht => exact SameSurroundings.grows (by rw [ht]; simp [SameSurroundings])
  | reset ht => exact SameSurroundings.grows (by simp [ht, SameSurroundings])
  | env h => exact ⟨by rw [h.block], h.tx, h.readings, h.calls, h.rx⟩

/-- No sequence of changes takes anything back. -/
theorem Changes.grows {s t : State} (h : Changes s t) : Grows s t := by
  induction h with
  | refl => exact SameSurroundings.grows (by simp [SameSurroundings])
  | tail _ hc ih => exact ih.trans hc.grows

/-- Settles O60: a step is a sequence of changes, none of which takes anything back. -/
theorem parametersAndSentBytesStay : Obligations.ParametersAndSentBytesStay := by
  intro s t h
  obtain ⟨hparams, htx, hreadings, hcalls, hrx⟩ := (step_changes h).grows
  exact ⟨hparams, htx, hreadings, hcalls, hrx⟩

/-! ### The invariant -/

/-- Settles O2: nothing is held and nothing runs after reset. -/
theorem resetMeetsTheInvariant : Obligations.ResetMeetsTheInvariant := by
  simp [Obligations.ResetMeetsTheInvariant, State.Inv, State.resultInv, State.reset]

/-- Where nothing runs, the invariant is of the results and of `d_left` alone. -/
theorem inv_of_idle {s : State} (hp : s.phase = .idle) (hr : s.resultInv) (hd : s.dLeft ≤ Config.maxRunData) : s.Inv :=
  ⟨hr, hd, fun hb => by simp [hp] at hb⟩

/-- A completion with `OK` leaves the results as the invariant asks. -/
theorem CompletedOk.resultInv {op : Op} {s : State} (h : CompletedOk op s) : s.resultInv := by
  obtain ⟨hp, rfl, hst, hv, hout, hvals⟩ := h
  simp [State.resultInv, hp, hst, hv, hout, hvals]

/-- An error outcome of `PACK` leaves the results as the invariant asks. -/
theorem EndedWith.resultInv_pack {s : State} (h : EndedWith .unsupportedArgumentType .pack s) : s.resultInv := by
  obtain ⟨hp, hop, hst, hv, hout, hvals⟩ := h
  simp [State.resultInv, hp, hop, hst, hv, hout, hvals]

/-- An error outcome of `UNPACK` leaves the results as the invariant asks. -/
theorem EndedWith.resultInv_unpack {s : State} (h : EndedWith .truncatedPayload .unpack s) : s.resultInv := by
  obtain ⟨hp, hop, hst, hv, hout, hvals⟩ := h
  simp [State.resultInv, hp, hop, hst, hv, hout, hvals]

/-- The end of the loop leaves the results as the invariant asks. -/
theorem LoopEnd.resultInv {s t : State} (h : LoopEnd s t) : t.resultInv := by
  rcases h.outcome with h | ⟨-, h⟩ | ⟨-, h⟩
  · exact h.resultInv
  · exact h.resultInv_pack
  · exact h.resultInv_unpack

/-- The free value that an ended `DEC` leaves in `d_left` is within its range (R26, U10). -/
theorem forget_dLeft_le {s : State} (h : s.opsel ≠ .dec → s.dLeft ≤ Config.maxRunData) : s.forget.dLeft ≤ Config.maxRunData := by
  rw [State.forget_dLeft]
  split_ifs with hd
  · exact Nat.le_of_lt_succ (Nat.mod_lt _ (Nat.succ_pos _))
  · exact h hd

/-- The end of the loop leaves `d_left` within its range. -/
theorem LoopEnd.dLeft_le {s t : State} (h : LoopEnd s t) (hd : s.opsel ≠ .dec → s.dLeft ≤ Config.maxRunData) :
    t.dLeft ≤ Config.maxRunData := by
  cases h with
  | ok _ ht => rw [ht, finish_frame]; exact forget_dLeft_le hd
  | unsupported _ _ ht => rw [ht]; exact forget_dLeft_le hd
  | truncated _ _ _ _ ht => rw [ht]; exact forget_dLeft_le hd

/-- Every operation that answers meets the invariant where it ends. -/
theorem exec_op_inv {s t : State} {op : Op} (hd : s.dLeft ≤ Config.maxRunData) (h : exec (Op.instr op) s = .next t) : t.Inv := by
  obtain ⟨-, u, ⟨⟨-, -, hregs⟩, rfl, -⟩, hend⟩ := exec_op_ends h
  refine inv_of_idle hend.idle hend.resultInv (hend.dLeft_le fun hne => ?_)
  obtain ⟨-, hdec, -⟩ := hregs
  rwa [(hdec hne).2.2]

/-- An iteration keeps `d_left` within its range. -/
theorem LoopStep.dLeft_le {s t : State} (h : LoopStep s t) (hd : s.dLeft ≤ Config.maxRunData) : t.dLeft ≤ Config.maxRunData := by
  by_cases ho : s.opsel = .dec
  · cases h with
    | run n _ _ ht => rw [ht, decRun_frame]; exact Nat.zero_le _
    | byte _ hne | item _ _ hne | elem _ hne => simp [ho] at hne
  · obtain ⟨-, hdec, -⟩ := h.keeps.rest.otherRegs
    rwa [(hdec ho).2.2]

/-- Whether the operands are written and fit is told by the operands and the parameters. -/
theorem operands_fit_congr {s t : State} (ho : SameOperands s t) (hp : t.params = s.params) (op : Op) :
    t.operandsHeld op = s.operandsHeld op ∧ t.capacityOk op = s.capacityOk op := by
  obtain ⟨h1, h2, h3, h4, h5, h6⟩ := ho
  cases op <;> simp [State.operandsHeld, State.capacityOk, h1, h2, h3, h4, h5, h6, hp]

/-- While an operation runs, the invariant asks of the results that there are none (R34). -/
theorem resultInv_of_busy {s : State} (hp : s.phase = .busy) :
    s.resultInv ↔ s.resultValid = false ∧ s.outHeld = false ∧ s.valsHeld = false := by
  constructor
  · rintro ⟨hv, hout, hvals, -⟩
    simp [hv hp, hout, hvals]
  · rintro ⟨hv, hout, hvals⟩
    simp [State.resultInv, hv, hout, hvals]

/-- An iteration keeps the invariant. -/
theorem LoopStep.inv {s t : State} (h : LoopStep s t) (hp : s.phase = .busy) (hi : s.Inv) : t.Inv := by
  obtain ⟨hr, hd, hb⟩ := hi
  obtain ⟨hheld, hcap, hw⟩ := hb hp
  obtain ⟨hrest, ⟨hphase, hop, -, -, hvalid⟩, -, -, hout, hvals⟩ := h.keeps
  obtain ⟨hsameHeld, hsameCap⟩ := operands_fit_congr hrest.operands hrest.surroundings.1 s.opsel
  refine ⟨?_, h.dLeft_le hd, fun _ => ?_⟩
  · rw [resultInv_of_busy (hphase.trans hp), hvalid, hout, hvals]
    exact (resultInv_of_busy hp).1 hr
  · rw [hop, hsameHeld, hsameCap]
    exact ⟨hheld, hcap, h.workInv hw⟩

/-- A start meets the invariant. -/
theorem started_inv {s : State} {op : Op} (h : s.ready op) (hd : s.dLeft ≤ Config.maxRunData) : (s.started op).Inv := by
  obtain ⟨-, hheld, hcap⟩ := h
  have hk := started_keeps s op
  obtain ⟨hsameHeld, hsameCap⟩ := operands_fit_congr hk.operands hk.surroundings.1 op
  refine ⟨(resultInv_of_busy (by simp)).2 (by simp), by simpa using hd, fun _ => ?_⟩
  rw [State.started_opsel, hsameHeld, hsameCap]
  exact ⟨hheld, hcap, started_workInv s op⟩

/-- A change of the environment keeps the invariant, which is of the block alone. -/
theorem EnvChange.inv {s t : State} (h : EnvChange s t) (hi : s.Inv) : t.Inv := by
  rw [h.block]
  exact hi

/-- Every change keeps the invariant. -/
theorem Change.inv {s t : State} (h : Change s t) (hi : s.Inv) : t.Inv := by
  have hd := hi.2.1
  cases h with
  | iteration hp h => exact h.inv hp hi
  | ending _ h => exact inv_of_idle h.idle h.resultInv (h.dLeft_le fun _ => hd)
  | operation op h => exact exec_op_inv hd h
  | start op h ht => exact ht ▸ started_inv h hd
  | operands hp ht =>
    obtain ⟨hr, -⟩ := hi
    rw [ht]
    exact inv_of_idle hp hr hd
  | reset ht =>
    obtain ⟨hr, hd, -⟩ := resetMeetsTheInvariant
    exact ht ▸ inv_of_idle (s := s.resetBlock) rfl hr hd
  | env h => exact h.inv hi

/-- Every sequence of changes keeps the invariant. -/
theorem Changes.inv {s t : State} (h : Changes s t) (hi : s.Inv) : t.Inv := by
  induction h with
  | refl => exact hi
  | tail _ hc ih => exact hc.inv ih

/-- Settles O55: a step is a sequence of changes, each of which keeps the invariant. -/
theorem everyStepKeepsTheInvariant : Obligations.EveryStepKeepsTheInvariant :=
  fun _ _ hi h => (step_changes h).inv hi

/-! ### No fault -/

/-- A sequence of two parts faults only where one of them does. -/
theorem NoFault.andThen {o : Outcome State Fault Refusal} {f : State → Outcome State Fault Refusal} (ho : NoFault o)
    (hf : ∀ s, NoFault (f s)) : NoFault (andThen o f) := by
  intro r h
  rcases andThen_eq_fault.1 h with h | ⟨s, -, h⟩
  · exact ho r h
  · exact hf s r h

theorem noFault_next (s : State) : NoFault (.next s) := by
  simp [NoFault]

theorem noFault_refused (r : Refusal) : NoFault (.refused r) := by
  simp [NoFault]

/-- A whole operation never faults: its loop keeps its placeholder inside `OUT` (R24, R57). -/
theorem exec_op_noFault (op : Op) (s : State) : NoFault (exec (Op.instr op) s) := by
  have start : ∀ op, NoFault (s.startOp op) := startOp_ne_fault s
  cases op with
  | enc => exact (start .enc).andThen fun _ => noFault_next _
  | dec => exact (start .dec).andThen fun _ => noFault_next _
  | pack => exact (start .pack).andThen fun _ => noFault_next _
  | unpack => exact (start .unpack).andThen fun _ => noFault_next _

/-! The operand writes, the transfers and the transactions of the environment are refused or answer. -/

theorem writeIn_noFault (s : State) (bs : List Byte) : NoFault (s.writeIn bs) := by
  unfold State.writeIn
  split_ifs <;> simp [NoFault]

theorem writeItems_noFault (s : State) (items : List Item) : NoFault (s.writeItems items) := by
  unfold State.writeItems
  split_ifs <;> simp [NoFault]

theorem writePat_noFault (s : State) (tags : List Tag) : NoFault (s.writePat tags) := by
  unfold State.writePat
  split_ifs <;> simp [NoFault]

theorem outToIn_noFault (s : State) (front : List Byte) : NoFault (s.outToIn front) := by
  unfold State.outToIn
  split
  · exact noFault_refused _
  · exact writeIn_noFault s _

theorem transmit_noFault (sent failed : State → State) (s : State) : NoFault (s.transmit sent failed) := by
  unfold State.transmit
  split <;> simp [NoFault]

theorem sendFrame_noFault (opcode : Byte) (items : List Item) (sent failed : State → State) (s : State) :
    NoFault (sendFrame opcode items sent failed s) := by
  refine (writeItems_noFault s items).andThen fun s1 => (exec_op_noFault .pack s1).andThen fun s2 => ?_
  split_ifs
  · exact (outToIn_noFault s2 _).andThen fun s3 => (exec_op_noFault .enc s3).andThen fun s4 => transmit_noFault _ _ s4
  · exact noFault_next _

theorem transact_noFault (payload : List Byte) (opcode : Byte) (items : List Item) (reply : Option (List Tag)) (s : State) :
    NoFault (transact payload opcode items reply s) := by
  unfold transact
  dsimp only
  split_ifs
  · exact noFault_refused _
  · exact noFault_next _
  · exact noFault_next _
  · exact sendFrame_noFault _ _ _ _ _

theorem readFrame_noFault (again : EnvOp) (s : State) {got : State → Outcome State Fault Refusal} (failed : State → State)
    (hg : ∀ s, NoFault (got s)) : NoFault (readFrame again s got failed) := by
  unfold readFrame
  split_ifs
  · exact noFault_refused _
  · split
    · exact (writeIn_noFault _ _).andThen hg
    · exact noFault_next _
    · exact noFault_next _

theorem receiveValues_noFault (again : EnvOp) (tags : List Tag) (ended : Bool → State → State) (s : State) :
    NoFault (receiveValues again tags ended s) :=
  readFrame_noFault again s _ fun s1 => (exec_op_noFault .dec s1).andThen fun s2 => (outToIn_noFault s2 _).andThen fun s3 =>
    (writePat_noFault s3 tags).andThen fun s4 => (exec_op_noFault .unpack s4).andThen fun _ => noFault_next _

/-- No action of the environment faults. -/
theorem runEnvOp_noFault (a : EnvOp) (s : State) : NoFault (runEnvOp a s) := by
  cases a with
  | writeIn bs => exact writeIn_noFault s bs
  | writeItems items => exact writeItems_noFault s items
  | writePat tags => exact writePat_noFault s tags
  | beginOp bits => exact startOp_ne_fault s _
  | outToIn front => exact outToIn_noFault s front
  | transmit => exact transmit_noFault _ _ s
  | receive => exact readFrame_noFault _ s _ noFault_next
  | sendFrame opcode items => exact sendFrame_noFault _ _ _ _ s
  | recvVals tags => exact receiveValues_noFault (.recvVals tags) tags (fun _ s1 => s1) s
  | reply tags => exact receiveValues_noFault (.reply tags) tags (fun error s1 => s1.release error) s
  | readOpsel | readStatus | readOut | readVal =>
    simp only [runEnvOp]
    split <;> simp [NoFault]
  | await | readPhase | readResultValid | writeBytes _ | readBytes | isOpen | close | openChannel | reset =>
    exact noFault_next _

/-- The block's own step does not fault where its working registers are in order: it always has a next state. -/
theorem step_block_noFault {s : State} (hf : fetch s = (fetchBlock s, s)) (hi : s.Inv) : NoFault (step s) := by
  have next : ∀ {t}, BlockStep s t → NoFault (step s) := fun hb => (step_block hf).2 hb ▸ noFault_next _
  cases hp : s.phase with
  | idle => exact next (.idle hp rfl)
  | busy =>
    obtain ⟨-, -, hbusy⟩ := hi
    obtain ⟨-, -, hw⟩ := hbusy hp
    rcases loop_goesOn_or_ends s with ⟨t, ht⟩ | ⟨t, ht⟩
    · exact next (ht.block hp hw)
    · exact next (ht.block hp hw)

/-- Settles O56: only the block's own step can fault, and the invariant has its placeholder inside `OUT`. -/
theorem noStepFaultsUnderTheInvariant : Obligations.NoStepFaultsUnderTheInvariant := by
  intro s hi
  rcases fetch_cases s with hf | ⟨rest, ⟨bits, hc, -⟩ | ⟨payload, hc, hf⟩ | ⟨a, hc, hf⟩⟩
  · exact step_block_noFault hf hi
  · rw [step_start hc]
    exact exec_op_noFault _ _
  · simp only [step, hf]
    split
    · next i hd =>
      rcases exec_env_cases hd with ⟨args, hexec⟩ | ⟨opcode, items, hexec⟩ <;> rw [hexec]
      · exact noFault_next _
      · exact transact_noFault _ _ _ _ _
    · exact noFault_refused _
  · simp only [step, hf]
    exact runEnvOp_noFault a _

end Sys2Proof.Machine
end

section
/-! The elements of the running operations and their completion, one row each (spec/40_cobs_encode.md section 2, spec/41_cobs_decode.md
section 2, spec/42_pack.md section 2, spec/43_unpack.md section 2, spec/60_exceptions.md section 1). -/

namespace Sys2Proof.Machine

/-- Settles O11: the step is `encByte`, whose three cases have an equation each. -/
theorem encodeStepsThroughThePayload : Obligations.EncodeStepsThroughThePayload := by
  rintro s b ⟨hp, ho, hw⟩ hc hl
  obtain ⟨⟨hoperands, hsurroundings, hregs⟩, hcontrol, hvals, -, hout, hheld⟩ := encByte_keeps ho b
  rw [ho] at hregs
  refine ⟨encByte s b, (step_running hw hp).2 (.byte b hp ho hc hl rfl), by rw [encByte_frame], hcontrol, hoperands,
    hsurroundings, hregs, hvals (by simp [ho]), hout, hheld, fun hb => ?_, fun hb hd => ?_, fun hb hd => ?_⟩
  · obtain rfl : b = Config.sentinel := hb
    rw [encByte_zero]
    exact ⟨rfl, rfl, rfl⟩
  · rw [encByte_data hb hd]
    exact ⟨rfl, rfl, rfl⟩
  · rw [encByte_forced hb hd, boundary_eq]
    exact ⟨by simp only [hd, Config.placeholder], by simp, rfl⟩

/-- The final boundary, in the reading of R125. -/
theorem atFinalBoundary_atMostOneUnread {s : State} (h : s.params.boundary = .atMostOneUnread) :
    s.atFinalBoundary = true ↔ s.inp.length - s.dIpos ≤ 1 := by
  simp [State.atFinalBoundary, h]

/-- The final boundary, in the other reading (U1). -/
theorem atFinalBoundary_nextAbsentOrZero {s : State} (h : s.params.boundary = .nextAbsentOrZero) :
    s.atFinalBoundary = true ↔ s.inp[s.dIpos]? = none ∨ s.inp[s.dIpos]? = some 0x00 := by
  simp only [State.atFinalBoundary, h]
  cases s.inp[s.dIpos]? <;> simp

/-- The run-length byte at the cursor of a running `DEC` answers `decRun`. -/
theorem runAtCursor_running {s : State} {n : Byte} (hr : s.running .dec = true) (hc : s.inp[s.dIpos]? = some n) :
    runAtCursor n s = .next (decRun n s) :=
  runAtCursor_eq_next.2 ⟨hr, hc, rfl⟩

/-- Settles O20: the row runs `decRun`, and below `0xFF` its implied zero is told by the final boundary alone. -/
theorem ordinaryRunIsCopiedThenZero : Obligations.OrdinaryRunIsCopiedThenZero := by
  intro s n i hr hc hi
  have ho := (running_eq_true.1 hr).2
  have hexec : exec i s = runAtCursor n s := by rcases hi with ⟨rfl, rfl⟩ | ⟨-, -, rfl⟩ <;> rfl
  have hlt : n < Config.maxCode := by
    have hne : n ≠ 0xFF := by
      rcases hi with ⟨rfl, -⟩ | ⟨-, hne, -⟩
      · decide
      · exact hne
    simp only [Config.maxCode]
    bv_omega
  obtain ⟨⟨hoperands, hsurroundings, hregs⟩, hcontrol, hvals, -, hout, hheld⟩ := decRun_keeps ho n
  rw [ho] at hregs
  have hbound : (decRun n s).params.boundary = s.params.boundary := by rw [decRun_params]
  refine ⟨decRun n s, hexec.trans (runAtCursor_running hr hc), by rw [decRun_frame], by rw [decRun_frame], by rw [decRun_frame],
    fun hf => ?_, fun hf => ?_, fun h => atFinalBoundary_atMostOneUnread (hbound.trans h),
    fun h => atFinalBoundary_nextAbsentOrZero (hbound.trans h), hcontrol, hoperands, hsurroundings, hregs, hvals (by simp [ho]),
    hout, hheld⟩
  · simp [decRun_out, hf]
  · rw [decRun_out, if_pos ⟨hlt, hf⟩]
    rfl

/-- Settles O21: the row runs `decRun`, and `0xFF` is not below itself. -/
theorem forcedRunImpliesNoZero : Obligations.ForcedRunImpliesNoZero := by
  intro s hr hc
  have ho := (running_eq_true.1 hr).2
  obtain ⟨⟨hoperands, hsurroundings, hregs⟩, hcontrol, hvals, -, hout, hheld⟩ := decRun_keeps ho Config.maxCode
  rw [ho] at hregs
  refine ⟨decRun Config.maxCode s, runAtCursor_running hr hc, ?_, by rw [decRun_frame]; rfl, by rw [decRun_frame],
    by rw [decRun_frame]; rfl, hcontrol, hoperands, hsurroundings, hregs, hvals (by simp [ho]), hout, hheld⟩
  rw [decRun_out, if_neg (by simp), List.append_nil]
  rfl

/-- An item with a serialisation at the cursor of a running `PACK` is appended, and nothing else changes but the cursor. -/
theorem itemAtCursor_serialised {s : State} {it : Item} {bs : List Byte} (hr : s.running .pack = true)
    (hc : s.items[s.pIdx]? = some it) (hb : Item.serialise it = some bs) :
    ∃ t, itemAtCursor it s = .next t ∧ t.out = s.out ++ bs ∧ t.pIdx = s.pIdx + 1 ∧
      SameControl s t ∧ SameOperands s t ∧ SameSurroundings s t ∧ SameOtherRegs .pack s t ∧ t.vals = s.vals ∧
      t.outHeld = s.outHeld ∧ t.valsHeld = s.valsHeld := by
  have ho := (running_eq_true.1 hr).2
  obtain ⟨⟨hoperands, hsurroundings, hregs⟩, hcontrol, hvals, -, hout, hheld⟩ := packItem_keeps ho hb
  rw [ho] at hregs
  exact ⟨packItem it s, itemAtCursor_eq_next.2 ⟨hr, hc, rfl⟩, by rw [packItem_serialised hb], by rw [packItem_serialised hb],
    hcontrol, hoperands, hsurroundings, hregs, hvals (by simp [ho]), hout, hheld⟩

/-- Settles O26: the serialisation of a numeric item is `le32` of its word. -/
theorem numericItemIsAppended : Obligations.NumericItemIsAppended := by
  rintro s w i hr (⟨hc, rfl⟩ | ⟨hc, rfl⟩)
  · exact itemAtCursor_serialised hr hc rfl
  · exact itemAtCursor_serialised hr hc rfl

/-- Settles O27: the serialisation of a raw item is its bytes. -/
theorem rawItemIsAppendedUnchanged : Obligations.RawItemIsAppendedUnchanged :=
  fun _ _ hr hc => itemAtCursor_serialised hr hc rfl

/-- An error outcome of the selected operation, with what it leaves unchanged. -/
theorem raise_outcome {s : State} {op : Op} (ho : s.opsel = op) (e : Status) :
    EndedWith e op (s.raise e) ∧ SameOperands s (s.raise e) ∧ SameSurroundings s (s.raise e) ∧ SameOtherRegs op s (s.raise e) := by
  subst ho
  obtain ⟨hoperands, hsurroundings, hregs⟩ := raise_keeps s e
  exact ⟨raise_endedWith s e, hoperands, hsurroundings, hregs⟩

/-- Settles O28: the item's row and the status row raise the same outcome. -/
theorem unsupportedItemRaises : Obligations.UnsupportedItemRaises := by
  intro s i hr hc hi
  obtain ⟨hp, ho⟩ := running_eq_true.1 hr
  refine ⟨s.raise .unsupportedArgumentType, ?_, raise_outcome ho _⟩
  rcases hi with rfl | rfl
  · exact itemAtCursor_eq_next.2 ⟨hr, hc, rfl⟩
  · exact raiseStep_eq_next.2 ⟨hp, by simp [State.errorCause, hr, hc], rfl⟩

/-- An element with four bytes left at the cursor of a running `UNPACK` is decoded, and nothing else changes but the cursors. -/
theorem elemAtCursor_decoded {s : State} {g : Tag} {b0 b1 b2 b3 : Byte} {rest : List Byte} (hr : s.running .unpack = true)
    (hc : s.pat[s.uIdx]? = some g) (hd : s.inp.drop s.uBpos = b0 :: b1 :: b2 :: b3 :: rest) :
    ∃ t, elemAtCursor g s = .next t ∧ t.vals = s.vals ++ [valueOf g (wordLe b0 b1 b2 b3)] ∧
      t.uBpos = s.uBpos + 4 ∧ t.uIdx = s.uIdx + 1 ∧
      SameControl s t ∧ SameOperands s t ∧ SameSurroundings s t ∧ SameOtherRegs .unpack s t ∧ t.out = s.out ∧
      t.outHeld = s.outHeld ∧ t.valsHeld = s.valsHeld := by
  have ho := (running_eq_true.1 hr).2
  obtain ⟨⟨hoperands, hsurroundings, hregs⟩, hcontrol, -, hout, hheld, hvals⟩ :=
    unpackElem_keeps ho (short_eq_false.2 ⟨b0, b1, b2, b3, rest, hd⟩) g
  rw [ho] at hregs
  exact ⟨unpackElem g s, elemAtCursor_eq_next.2 ⟨hr, hc, rfl⟩, by rw [unpackElem_decoded hd],
    by rw [unpackElem_decoded hd]; rfl, by rw [unpackElem_decoded hd], hcontrol, hoperands, hsurroundings, hregs, hout ho, hheld,
    hvals⟩

/-- A word denotes an integer of the Int32 range (R9). -/
theorem sint32_range (w : Word) : -2 ^ 31 ≤ sint32 w ∧ sint32 w ≤ 2 ^ 31 - 1 := by
  have hbit : w.getLsbD 31 = decide (2 ^ 31 ≤ w.toNat) := by
    rw [← BitVec.msb_eq_getLsbD_last (x := w), BitVec.msb_eq_decide]
  have hlt := w.isLt
  simp only [sint32, hbit, decide_eq_true_eq]
  split_ifs <;> omega

/-- Settles O35: `Int` reads the word as an Int32 value. -/
theorem intElementReadsFourBytes : Obligations.IntElementReadsFourBytes := by
  intro s b0 b1 b2 b3 rest hr hc hd
  obtain ⟨t, ht, hvals, hrest⟩ := elemAtCursor_decoded hr hc hd
  exact ⟨t, ht, hvals, (sint32_range _).1, (sint32_range _).2, hrest⟩

/-- Settles O36: `Float` reads the word as a Float32 value. -/
theorem floatElementReadsFourBytes : Obligations.FloatElementReadsFourBytes :=
  fun _ _ _ _ _ _ hr hc hd => elemAtCursor_decoded hr hc hd

/-- Settles O37: the element's row and the status row raise the same outcome. -/
theorem shortElementRaises : Obligations.ShortElementRaises := by
  intro s g i hr hc hlt hi
  obtain ⟨hp, ho⟩ := running_eq_true.1 hr
  have hs : s.short = true := decide_eq_true hlt
  have hrow : elemAtCursor g s = .next (s.raise .truncatedPayload) :=
    elemAtCursor_eq_next.2 ⟨hr, hc, (unpackElem_short hs g).symm⟩
  refine ⟨s.raise .truncatedPayload, ?_, raise_outcome ho _⟩
  rcases hi with ⟨rfl, rfl⟩ | ⟨rfl, rfl⟩ | rfl
  · exact hrow
  · exact hrow
  · have hidx : s.uIdx < s.pat.length := (List.getElem?_eq_some_iff.1 hc).1
    exact raiseStep_eq_next.2 ⟨hp, by simp [State.errorCause, hr, hidx, hs], rfl⟩

/-- Settles O38: the row runs the lines after the loop, of each operation its own. -/
theorem completionDeliversTheResult : Obligations.CompletionDeliversTheResult := by
  intro s hp hl hk
  obtain ⟨hoperands, hsurroundings, hregs⟩ := finish_keeps s
  exact ⟨s.finish, execStatusOk_eq_next.2 ⟨hp, hl, hk, rfl⟩, finish_completed s, fun ho => finish_out_of_enc ho,
    fun ho => finish_out_of_dec ho, fun ho => finish_out_of_pack ho, fun ho => finish_out_of_unpack ho, finish_vals s, hoperands,
    hsurroundings, hregs⟩

end Sys2Proof.Machine
end

section
/-! What a frame is (spec/30_encoding.md section 2, spec/40_cobs_encode.md section 3): its only zero is its last byte, it parses by the
frame grammar, it is split off a stream exactly, its length, and that it is the frame of one payload only. -/

namespace Sys2Proof.Machine

/-- `ENC` answers from a ready state, with the frame of `IN` in `OUT`. -/
theorem exec_enc_eq_next_out {s t : State} (h : exec .enc s = .next t) : s.ready .enc ∧ t.out = cobsEncode s.inp := by
  have hr := (exec_op_ends (op := .enc) h).1
  obtain ⟨t', ht', -, hout, -⟩ := exec_enc_of_ready hr
  cases h.symm.trans ht'
  exact ⟨hr, hout⟩

/-- The code of an open run is no zero. -/
theorem runCode_ne_sentinel {run : List Byte} (h : run.length < Config.maxRunData) :
    BitVec.ofNat 8 (run.length + 1) ≠ Config.sentinel := by
  intro he
  have := (runCode_of_short h).1
  rw [he] at this
  simp [Config.sentinel] at this

/-- The only zero of a frame is its last byte (R106). -/
theorem cobsEncodeFrom_zero_last (p : List Byte) {run : List Byte} (hrun : run.length < Config.maxRunData)
    (hz : Config.sentinel ∉ run) :
    ∃ body, cobsEncodeFrom run p = body ++ [Config.sentinel] ∧ Config.sentinel ∉ body := by
  induction p generalizing run with
  | nil =>
    refine ⟨BitVec.ofNat 8 (run.length + 1) :: run, by simp [cobsEncodeFrom], ?_⟩
    simp [(runCode_ne_sentinel hrun).symm, hz]
  | cons b p ih =>
    obtain ⟨body, hbody, hzb⟩ := ih (run := []) (by decide) (by simp)
    rw [cobsEncodeFrom]
    split_ifs with hb hn
    · refine ⟨BitVec.ofNat 8 (run.length + 1) :: (run ++ body), by simp [hbody], ?_⟩
      simp [(runCode_ne_sentinel hrun).symm, hz, hzb]
    · refine ⟨Config.maxCode :: (run ++ b :: body), by simp [hbody], ?_⟩
      simp [hz, hzb, Ne.symm hb, show Config.sentinel ≠ Config.maxCode by decide]
    · exact ih (length_append_lt_maxRunData hrun hn b) (by simp [hz, Ne.symm hb])

/-- The data bytes of a run are passed over by the grammar when none of them is zero. -/
theorem frameTail_data (forced : Bool) {data : List Byte} (rest : List Byte) (hz : Config.sentinel ∉ data) :
    frameTail data.length forced (data ++ rest) = frameTail 0 forced rest := by
  induction data with
  | nil => rfl
  | cons b data ih =>
    obtain ⟨hb, hz⟩ := not_or.1 (mt List.mem_cons.2 hz)
    simp [frameTail, ih hz, Ne.symm hb]

/-- A complete run is passed over by the grammar (R71). -/
theorem frameTail_run (forced : Bool) {n : Byte} {data : List Byte} (rest : List Byte) (hn : n.toNat = data.length + 1)
    (hz : Config.sentinel ∉ data) :
    frameTail 0 forced (n :: (data ++ rest)) = frameTail 0 (n == Config.maxCode) rest := by
  have hne : n ≠ Config.sentinel := by
    rintro rfl
    simp [Config.sentinel] at hn
  rw [frameTail, if_neg hne, hn, Nat.add_sub_cancel, frameTail_data _ rest hz]

/-- A frame parses by the grammar, whether a run of code `0xFF` came before it or not (R71, R106). -/
theorem frameTail_cobsEncodeFrom (forced : Bool) (p : List Byte) {run : List Byte} (hrun : run.length < Config.maxRunData)
    (hz : Config.sentinel ∉ run) : frameTail 0 forced (cobsEncodeFrom run p) = true := by
  induction p generalizing forced run with
  | nil =>
    obtain ⟨hcode, hbelow⟩ := runCode_of_short hrun
    rw [cobsEncodeFrom, frameTail_run forced _ hcode hz]
    simpa [frameTail] using hbelow
  | cons b p ih =>
    rw [cobsEncodeFrom]
    split_ifs with hb hn
    · rw [frameTail_run forced _ (runCode_of_short hrun).1 hz, ih _ (by decide) (by simp)]
    · have hcode : Config.maxCode.toNat = (run ++ [b]).length + 1 := by
        rw [List.length_append, List.length_singleton, hn]
        rfl
      rw [List.append_cons, frameTail_run forced _ hcode (by simp [hz, Ne.symm hb]), ih _ (by decide) (by simp)]
    · exact ih forced (length_append_lt_maxRunData hrun hn b) (by simp [hz, Ne.symm hb])

/-- A frame is what may follow a run of code `0xFF`: at least one run, then the terminator. -/
theorem isFrame_of_frameTail {l : List Byte} (h : frameTail 0 true l = true) : isFrame l = true := by
  cases l with
  | nil => simp [frameTail] at h
  | cons n rest =>
    rw [frameTail] at h
    split_ifs at h with hn
    · simp at h
    · simp [isFrame, hn, h]

/-- A frame has at least the bytes of its payload and two more. -/
theorem length_add_two_le_encLength (p : List Byte) : p.length + 2 ≤ encLength p := by
  simp [encLength]

/-- Settles O12: `ENC` gives `cobsEncode`, whose only zero is the last byte and which parses by the grammar. -/
theorem encodedFramesMeetTheGrammar : Obligations.EncodedFramesMeetTheGrammar := by
  intro s t h
  obtain ⟨-, hout⟩ := exec_enc_eq_next_out h
  obtain ⟨body, hbody, hz⟩ := cobsEncodeFrom_zero_last s.inp (run := []) (by decide) (by simp)
  have hlen := length_add_two_le_encLength s.inp
  rw [hout]
  refine ⟨by rw [length_cobsEncode]; omega, ?_, ?_, isFrame_of_frameTail (frameTail_cobsEncodeFrom true _ (by decide) (by simp))⟩
  · rw [cobsEncode, hbody, List.getLast?_concat]
    rfl
  · rw [cobsEncode, hbody, List.dropLast_concat]
    rintro b hb rfl
    exact hz hb

/-- Bytes up to the first zero are split off the bytes behind it. -/
theorem takeFrame_of_zero_last {body : List Byte} (hz : Config.sentinel ∉ body) (rest : List Byte) :
    takeFrame (body ++ Config.sentinel :: rest) = some (body ++ [Config.sentinel], rest) := by
  induction body with
  | nil => simp [takeFrame]
  | cons b body ih =>
    obtain ⟨hb, hz⟩ := not_or.1 (mt List.mem_cons.2 hz)
    simp [takeFrame, ih hz, Ne.symm hb]

/-- A frame is split off a stream exactly (R75). -/
theorem takeFrame_cobsEncode (p rest : List Byte) : takeFrame (cobsEncode p ++ rest) = some (cobsEncode p, rest) := by
  obtain ⟨body, hbody, hz⟩ := cobsEncodeFrom_zero_last p (run := []) (by decide) (by simp)
  rw [cobsEncode, hbody, ← takeFrame_of_zero_last hz rest]
  simp

/-- Settles O16: `ENC` gives a frame, and a frame is split off exactly. -/
theorem framesSplitOnTheSentinel : Obligations.FramesSplitOnTheSentinel := by
  intro s t rest h
  rw [(exec_enc_eq_next_out h).2]
  exact takeFrame_cobsEncode _ _

/-- Settles O15: reading the runs of the common frame gives both payloads. -/
theorem encodeIsInjective : Obligations.EncodeIsInjective := by
  intro s s' t t' h h' heq
  rw [(exec_enc_eq_next_out h).2, (exec_enc_eq_next_out h').2] at heq
  have hdec := congrArg (cobsDecode .atMostOneUnread) heq
  rwa [cobsDecode_cobsEncode, cobsDecode_cobsEncode] at hdec

/-- There is one zero-free segment more than zeros (R107). -/
theorem length_zeroFreeSegments (p : List Byte) : (zeroFreeSegments p).length = zeroCount p + 1 := by
  induction p with
  | nil => rfl
  | cons b p ih =>
    obtain ⟨seg, segs, h⟩ := List.exists_cons_of_ne_nil (zeroFreeSegments_ne_nil p)
    rw [h] at ih
    rw [zeroFreeSegments_cons h, zeroCount, List.count_cons]
    rw [zeroCount] at ih
    split_ifs <;> simp_all

/-- The zeros and the bytes of the zero-free segments are all the bytes of a payload (R107). -/
theorem sum_length_zeroFreeSegments (p : List Byte) :
    p.length = zeroCount p + ((zeroFreeSegments p).map List.length).sum := by
  induction p with
  | nil => rfl
  | cons b p ih =>
    obtain ⟨seg, segs, h⟩ := List.exists_cons_of_ne_nil (zeroFreeSegments_ne_nil p)
    rw [zeroFreeSegments_cons h, zeroCount, List.count_cons]
    simp only [h, zeroCount, List.map_cons, List.sum_cons] at ih
    split_ifs with hb hc <;> simp_all <;> omega

/-- Quotients of the parts add up to no more than the quotient of the whole. -/
theorem sum_div_le (l : List (List Byte)) (d : Nat) :
    (l.map fun seg => seg.length / d).sum ≤ (l.map List.length).sum / d := by
  induction l with
  | nil => simp
  | cons seg l ih =>
    simp only [List.map_cons, List.sum_cons]
    exact (Nat.add_le_add_left ih _).trans Nat.div_add_div_le_add_div

/-- Settles O13: the length law of `ENC`, and the zeros and the segments of a payload. -/
theorem encodedLengthIsExact : Obligations.EncodedLengthIsExact := by
  intro s t h
  have hlen : t.out.length = encLength s.inp := by rw [(exec_enc_eq_next_out h).2, length_cobsEncode]
  have hsum := sum_length_zeroFreeSegments s.inp
  have hforced : ((zeroFreeSegments s.inp).map fun seg => seg.length / Config.maxRunData).sum ≤ s.inp.length / Config.maxRunData :=
    (sum_div_le _ _).trans (Nat.div_le_div_right (by omega))
  refine ⟨hlen, length_zeroFreeSegments s.inp, hsum, hlen ▸ length_add_two_le_encLength s.inp, ?_⟩
  rw [hlen, encLength]
  exact Nat.add_le_add_left hforced _

/-- Settles O17: `DEC` of a ready state. -/
theorem decodeReadsTheRuns : Obligations.DecodeReadsTheRuns :=
  fun _ h => exec_dec_of_ready h

/-- `DEC` answers from a ready state, with the reading of the runs of `IN` in `OUT`. -/
theorem exec_dec_eq_next_out {s t : State} (h : exec .dec s = .next t) :
    s.ready .dec ∧ t.out = cobsDecode s.params.boundary s.inp := by
  have hr := (exec_op_ends (op := .dec) h).1
  obtain ⟨t', ht', -, hout⟩ := exec_dec_of_ready hr
  cases h.symm.trans ht'
  exact ⟨hr, hout⟩

/-- Reading the runs gives at most a byte for each byte read: a data byte itself, or the implied zero before a run-length byte. -/
theorem length_cobsDecodeFrom_le (boundary : FinalBoundary) (left : Nat) (zero : Bool) (l : List Byte) :
    (cobsDecodeFrom boundary left zero l).length ≤ l.length := by
  induction l generalizing left zero with
  | nil => simp [cobsDecodeFrom]
  | cons b l ih =>
    cases left with
    | succ k => simpa [cobsDecodeFrom] using ih k zero
    | zero =>
      have htail := ih (b.toNat - 1) (b != Config.maxCode)
      simp only [cobsDecodeFrom, List.length_append, List.length_cons]
      split_ifs <;> simp only [List.length_singleton, List.length_nil] <;> omega

/-- Before the first run-length byte no zero is implied (R133). -/
theorem length_cobsDecode_le (boundary : FinalBoundary) (l : List Byte) : (cobsDecode boundary l).length ≤ l.length - 1 := by
  cases l with
  | nil => simp [cobsDecode, cobsDecodeFrom]
  | cons n l =>
    rw [cobsDecode, cobsDecodeFrom_code]
    exact length_cobsDecodeFrom_le boundary _ _ l

/-- The run-length bytes `0xFF` behind the data bytes of a run. -/
theorem forcedRuns_data (data rest : List Byte) : forcedRuns data.length (data ++ rest) = forcedRuns 0 rest := by
  induction data with
  | nil => rfl
  | cons b data ih => exact ih

/-- A complete run counts when its code is `0xFF`. -/
theorem forcedRuns_run {n : Byte} {data : List Byte} (rest : List Byte) (hn : n.toNat = data.length + 1) :
    forcedRuns 0 (n :: (data ++ rest)) = (if n = Config.maxCode then 1 else 0) + forcedRuns 0 rest := by
  rw [forcedRuns, hn, Nat.add_sub_cancel, forcedRuns_data]

/-- The length of a frame from an open run, by its run-length bytes `0xFF`: they alone stand for no payload byte (R133). -/
theorem length_cobsEncodeFrom_forcedRuns (p : List Byte) {run : List Byte} (hrun : run.length < Config.maxRunData) :
    (cobsEncodeFrom run p).length = run.length + p.length + 2 + forcedRuns 0 (cobsEncodeFrom run p) := by
  induction p generalizing run with
  | nil =>
    obtain ⟨hcode, hbelow⟩ := runCode_of_short hrun
    rw [cobsEncodeFrom, forcedRuns_run _ hcode, if_neg (bne_iff_ne.1 hbelow)]
    simp [forcedRuns, Config.sentinel, Config.maxCode]
  | cons b p ih =>
    have hrest := ih (run := []) (by decide)
    rw [cobsEncodeFrom]
    split_ifs with hb hn
    · obtain ⟨hcode, hbelow⟩ := runCode_of_short hrun
      rw [forcedRuns_run _ hcode, if_neg (bne_iff_ne.1 hbelow)]
      simp only [List.length_cons, List.length_append, List.length_nil] at hrest ⊢
      omega
    · have hcode : Config.maxCode.toNat = (run ++ [b]).length + 1 := by
        rw [List.length_append, List.length_singleton, hn]
        rfl
      rw [List.append_cons, forcedRuns_run _ hcode, if_pos rfl]
      simp only [List.length_cons, List.length_append, List.length_nil] at hrest ⊢
      omega
    · rw [ih (length_append_lt_maxRunData hrun hn b)]
      simp only [List.length_cons, List.length_append, List.length_nil]
      omega

/-- Settles O19: the bound holds of reading any runs, and a frame reads back to its payload. -/
theorem decodedLengthIsBounded : Obligations.DecodedLengthIsBounded := by
  refine ⟨fun s t h => ?_, fun s t p h hp => ?_⟩
  · rw [(exec_dec_eq_next_out h).2, Nat.max_zero]
    exact length_cobsDecode_le _ _
  · have hlen := length_cobsEncodeFrom_forcedRuns p (run := []) (by decide)
    rw [(exec_dec_eq_next_out h).2, hp, cobsDecode_cobsEncode]
    simpa [cobsEncode] using hlen.symm

end Sys2Proof.Machine
end

section
/-! The results of the whole operations: what they are told by (spec/10_state.md rule R20), that they fit the capacities (spec/20_memory.md
rule R58), and the laws of `PACK` and `UNPACK` (spec/42_pack.md section 3, spec/43_unpack.md sections 2 and 3). -/

namespace Sys2Proof.Machine

/-- `PACK` answers from a ready state, with the items' bytes or, where an item has none, with its error. -/
theorem exec_pack_cases {s t : State} (h : exec .pack s = .next t) :
    s.ready .pack ∧ ((∃ p, packBytes s.items = some p ∧ CompletedOk .pack t ∧ t.out = p) ∨
      packBytes s.items = none ∧ EndedWith .unsupportedArgumentType .pack t) := by
  have hr := (exec_op_ends (op := .pack) h).1
  obtain ⟨t', ht', hsome, hnone, -⟩ := packConcatenatesOrFails s hr
  cases h.symm.trans ht'
  cases hp : packBytes s.items with
  | none => exact ⟨hr, .inr ⟨rfl, hnone hp⟩⟩
  | some p => exact ⟨hr, .inl ⟨p, rfl, hsome p hp⟩⟩

/-- `UNPACK` answers from a ready state, with the values and the remainder or, where the payload is too short, with its error. -/
theorem exec_unpack_cases {s t : State} (h : exec .unpack s = .next t) :
    s.ready .unpack ∧
      ((∃ vs rest, unpackBytes s.pat s.inp = some (vs, rest) ∧ CompletedOk .unpack t ∧ t.vals = vs ∧ t.out = rest) ∨
        unpackBytes s.pat s.inp = none ∧ EndedWith .truncatedPayload .unpack t) := by
  have hr := (exec_op_ends (op := .unpack) h).1
  obtain ⟨t', ht', hsome, hnone⟩ := unpackReadsThePattern s hr
  cases h.symm.trans ht'
  cases hu : unpackBytes s.pat s.inp with
  | none => exact ⟨hr, .inr ⟨rfl, hnone hu⟩⟩
  | some r => exact ⟨hr, .inl ⟨r.1, r.2, rfl, hsome r.1 r.2 hu⟩⟩

/-! ### The result is a function of the operands (R20) -/

/-- `STATUS`, `OUT` and `VAL[]` as the operands of an operation and the parameters tell them. -/
def State.result (s : State) : Op → Status × List Byte × List Value
  | .enc => (.ok, cobsEncode s.inp, [])
  | .dec => (.ok, cobsDecode s.params.boundary s.inp, [])
  | .pack =>
    match packBytes s.items with
    | some p => (.ok, p, [])
    | none => (.unsupportedArgumentType, [], [])
  | .unpack =>
    match unpackBytes s.pat s.inp with
    | some (vs, rest) => (.ok, rest, vs)
    | none => (.truncatedPayload, [], [])

/-- Only `UNPACK` puts anything in `VAL[]`. -/
theorem exec_op_vals {s t : State} {op : Op} (h : exec (Op.instr op) s = .next t) (hop : op ≠ .unpack) : t.vals = [] := by
  obtain ⟨-, u, ⟨-, -, -, hvals⟩, hend⟩ := exec_op_ends h
  cases hend <;> simp [*]

/-- An error outcome leaves nothing in `OUT` and `VAL[]` (R212). -/
theorem exec_op_error_empty {s t : State} {op : Op} (h : exec (Op.instr op) s = .next t) (hne : t.status ≠ .ok) :
    t.out = [] ∧ t.vals = [] := by
  obtain ⟨-, u, -, hend⟩ := exec_op_ends h
  cases hend with
  | ok _ ht =>
    obtain ⟨-, -, hok, -⟩ := finish_completed u
    exact absurd (ht ▸ hok) hne
  | unsupported _ _ ht => exact ht ▸ ⟨rfl, rfl⟩
  | truncated _ _ _ _ ht => exact ht ▸ ⟨rfl, rfl⟩

/-- The result of an operation is told by its operands and the parameters. -/
theorem exec_op_result {s t : State} {op : Op} (h : exec (Op.instr op) s = .next t) :
    (t.status, t.out, t.vals) = s.result op := by
  have hvals := exec_op_vals h
  have hempty := exec_op_error_empty h
  have hok := (statusIsTheOperationsOwn s t op h).2.2.2.2.1
  cases op with
  | enc => rw [hok (.inl rfl), hvals (by decide), (exec_enc_eq_next_out h).2]; rfl
  | dec => rw [hok (.inr rfl), hvals (by decide), (exec_dec_eq_next_out h).2]; rfl
  | pack =>
    obtain ⟨-, ⟨p, hp, ⟨-, -, hst, -⟩, hout⟩ | ⟨hp, -, -, hst, -⟩⟩ := exec_pack_cases h
    · simp [State.result, hp, hst, hout, hvals]
    · simp [State.result, hp, hst, hempty]
  | unpack =>
    obtain ⟨-, ⟨vs, rest, hu, ⟨-, -, hst, -⟩, hvs, hout⟩ | ⟨hu, -, -, hst, -⟩⟩ := exec_unpack_cases h
    · simp [State.result, hu, hst, hout, hvs]
    · simp [State.result, hu, hst, hempty]

/-- Whether the results hold a value is told by the outcome. -/
theorem exec_op_held {s t : State} {op : Op} (h : exec (Op.instr op) s = .next t) :
    t.outHeld = (t.status == .ok) ∧ t.valsHeld = (t.status == .ok && op == .unpack) := by
  rcases exec_op_outcome h with
    ⟨-, -, hst, -, hout, hvals⟩ | ⟨rfl, -, -, hst, -, hout, hvals⟩ | ⟨rfl, -, -, hst, -, hout, hvals⟩ <;>
    simp [hst, hout, hvals]

/-- The same operands and parameters tell the same result. -/
theorem result_congr {s s' : State} {op : Op} (ho : SameUsedOperands op s s') (hp : s'.params = s.params) :
    s'.result op = s.result op := by
  cases op <;> simp only [SameUsedOperands] at ho <;> simp [State.result, ho, hp]

/-- Settles O42: the result is a function of operands and parameters, and its status tells what is held. -/
theorem resultDependsOnOperandsOnly : Obligations.ResultDependsOnOperandsOnly := by
  intro s s' t t' op ho hp h h'
  have hres := (exec_op_result h').trans ((result_congr ho hp).trans (exec_op_result h).symm)
  simp only [Prod.mk.injEq] at hres
  obtain ⟨hst, hout, hvals⟩ := hres
  obtain ⟨houtHeld, hvalsHeld⟩ := exec_op_held h
  obtain ⟨houtHeld', hvalsHeld'⟩ := exec_op_held h'
  exact ⟨hst, hout, by rw [houtHeld, houtHeld', hst], hvals, by rw [hvalsHeld, hvalsHeld', hst]⟩

/-! ### The laws of `PACK` -/

/-- The payload of two lists joined is their payloads joined. -/
theorem packBytes_append {a b : List Item} {p q : List Byte} (ha : packBytes a = some p) (hb : packBytes b = some q) :
    packBytes (a ++ b) = some (p ++ q) := by
  induction a generalizing p with
  | nil =>
    cases ha
    exact hb
  | cons it a ih =>
    obtain ⟨bs, r, hbs, hr, rfl⟩ := packBytes_cons_eq_some.1 ha
    rw [List.append_assoc]
    exact packBytes_cons_eq_some.2 ⟨bs, r ++ q, hbs, ih hr, rfl⟩

/-- `PACK` that ends with `OK` has the items' bytes in `OUT`. -/
theorem exec_pack_ok {s t : State} (h : exec .pack s = .next t) (hok : t.status = .ok) : packBytes s.items = some t.out := by
  obtain ⟨-, ⟨p, hp, -, rfl⟩ | ⟨-, -, -, hst, -⟩⟩ := exec_pack_cases h
  · exact hp
  · simp [hok] at hst

/-- Settles O23: the payload of the joined list. -/
theorem packRespectsAppend : Obligations.PackRespectsAppend := by
  intro s s1 s2 t t1 t2 h h1 h2 hitems hok1 hok2
  have hp := packBytes_append (exec_pack_ok h1 hok1) (exec_pack_ok h2 hok2)
  rw [← hitems] at hp
  obtain ⟨-, ⟨p, hp', ⟨-, -, hst, -⟩, rfl⟩ | ⟨hn, -⟩⟩ := exec_pack_cases h
  · exact ⟨hst, Option.some.inj (hp'.symm.trans hp)⟩
  · simp [hn] at hp

/-- The length of a payload is the lengths of the items' serialisations added up (R146). -/
theorem length_of_packBytes {f : Item → Nat} (hf : ∀ it bs, Item.serialise it = some bs → f it = bs.length) {items : List Item}
    {p : List Byte} (h : packBytes items = some p) : p.length = (items.map f).sum := by
  induction items generalizing p with
  | nil =>
    cases h
    rfl
  | cons it items ih =>
    obtain ⟨bs, q, hbs, hq, rfl⟩ := packBytes_cons_eq_some.1 h
    simp [hf it bs hbs, ih hq]

/-- Settles O24: 4 bytes for a numeric item, and its own bytes for a raw one. -/
theorem packedLengthIsExact : Obligations.PackedLengthIsExact := by
  intro s t h hok
  refine length_of_packBytes (fun it bs hbs => ?_) (exec_pack_ok h hok)
  cases it <;> cases hbs <;> rfl

/-! ### The laws of `UNPACK` -/

/-- Settles O31: a ready `UNPACK` has enough bytes for its pattern, or it raises. -/
theorem truncatedExactlyWhenTooShort : Obligations.TruncatedExactlyWhenTooShort := by
  intro s hr
  by_cases hlt : s.inp.length < 4 * s.pat.length
  · obtain ⟨t, ht, hend⟩ := exec_unpack_of_truncated hr hlt
    obtain ⟨-, hout, hvals⟩ := hend.reads
    exact ⟨t, ht, ⟨fun _ => hlt, fun _ => hend.2.2.1⟩, fun _ => ⟨hout, hvals⟩, fun hle => by omega⟩
  · obtain ⟨t, ht, hok, -⟩ := remainderIsReturned s hr (by omega)
    exact ⟨t, ht, by simp [hok, hlt], fun h => absurd h hlt, fun _ => hok⟩

/-- Settles O32: nothing is unpacked under the empty pattern. -/
theorem emptyPatternReturnsThePayload : Obligations.EmptyPatternReturnsThePayload := by
  intro s hr hpat
  obtain ⟨t, ht, ⟨-, -, hst, -⟩, hvals, hout⟩ := exec_unpack_of_unpackBytes hr (vs := []) (rest := s.inp) (by rw [hpat]; rfl)
  exact ⟨t, ht, hst, hvals, hout⟩

/-- The values of a payload, packed again, are its bytes up to the remainder (R167). -/
theorem packBytes_of_unpackBytes {tags : List Tag} {p rest : List Byte} {vs : List Value}
    (h : unpackBytes tags p = some (vs, rest)) :
    vs.length = tags.length ∧ ∃ q, packBytes (vs.map Value.toItem) = some q ∧ q ++ rest = p := by
  induction tags generalizing p vs with
  | nil =>
    cases h
    exact ⟨rfl, [], rfl, rfl⟩
  | cons g tags ih =>
    obtain ⟨b0, b1, b2, b3, p, ws, rfl, hws, rfl⟩ := unpackBytes_cons_eq_some.1 h
    obtain ⟨hlen, q, hq, rfl⟩ := ih hws
    have hword : Item.serialise (Value.toItem (valueOf g (wordLe b0 b1 b2 b3))) = some [b0, b1, b2, b3] := by
      cases g <;> exact congrArg some (le32_wordLe b0 b1 b2 b3)
    exact ⟨by simp [hlen], _, packBytes_cons_eq_some.2 ⟨_, q, hword, hq, rfl⟩, rfl⟩

/-- Settles O33: `UNPACK` that ends with `OK` has unpacked its payload. -/
theorem packingTheValuesGivesThePayload : Obligations.PackingTheValuesGivesThePayload := by
  intro s t h hok
  obtain ⟨-, ⟨vs, rest, hu, -, rfl, rfl⟩ | ⟨-, -, -, hst, -⟩⟩ := exec_unpack_cases h
  · obtain ⟨hlen, hpack⟩ := packBytes_of_unpackBytes hu
    exact ⟨hlen, by rw [unpackBytes_remainder hu, List.length_drop], hpack⟩
  · simp [hok] at hst

/-- Four bytes of a word are read back as the word, under either tag (R151). -/
theorem unpackBytes_cons_le32 {g : Tag} {tags : List Tag} {p rest : List Byte} {vs : List Value} (w : Word)
    (h : unpackBytes tags p = some (vs, rest)) : unpackBytes (g :: tags) (le32 w ++ p) = some (valueOf g w :: vs, rest) :=
  unpackBytes_cons_eq_some.2 ⟨_, _, _, _, p, vs, rfl, h, by rw [wordLe_le32]⟩

/-- A numeric item is serialised as the word that its tag reads as its value. -/
theorem serialise_of_numeric {it : Item} {v : Value} {g : Tag} (hv : Item.value it = some v) (hg : Item.tag it = some g) :
    ∃ w, Item.serialise it = some (le32 w) ∧ valueOf g w = v := by
  cases it with
  | int32 w | float32 w =>
    cases hv
    cases hg
    exact ⟨w, rfl, rfl⟩
  | rawBytes | unsupported => cases hv

/-- Numeric items pack, and what they pack to is unpacked under their own tags to their values, whatever follows (R151). -/
theorem unpackBytes_of_numeric {items : List Item} {vs : List Value} {tags : List Tag}
    (hv : items.map Item.value = vs.map some) (ht : items.map Item.tag = tags.map some) :
    ∃ p, packBytes items = some p ∧ ∀ rest, unpackBytes tags (p ++ rest) = some (vs, rest) := by
  induction items generalizing vs tags with
  | nil =>
    obtain rfl : vs = [] := by simpa using hv.symm
    obtain rfl : tags = [] := by simpa using ht.symm
    exact ⟨[], rfl, fun _ => rfl⟩
  | cons it items ih =>
    cases vs with
    | nil => simp at hv
    | cons v vs =>
      cases tags with
      | nil => simp at ht
      | cons g tags =>
        simp only [List.map_cons, List.cons.injEq] at hv ht
        obtain ⟨p, hp, hu⟩ := ih hv.2 ht.2
        obtain ⟨w, hw, rfl⟩ := serialise_of_numeric hv.1 ht.1
        refine ⟨le32 w ++ p, packBytes_cons_eq_some.2 ⟨_, _, hw, hp, rfl⟩, fun rest => ?_⟩
        rw [List.append_assoc]
        exact unpackBytes_cons_le32 w (hu rest)

/-! ### Capacities (R58) -/

/-- What is no longer than something that fits, fits. -/
theorem within_of_le {cap : Option Nat} {m n : Nat} (h : within cap n = true) (hle : m ≤ n) : within cap m = true := by
  cases cap with
  | none => rfl
  | some c =>
    simp only [within, decide_eq_true_eq] at h ⊢
    omega

/-- The length that `PACK` checks is that of the payload (R146). -/
theorem packLength_eq (items : List Item) : packLength items = (packBytes items).map List.length := by
  induction items with
  | nil => rfl
  | cons it items ih =>
    simp only [packLength, packBytes, ih]
    cases Item.serialise it <;> cases packBytes items <;> simp

/-- The payload of a ready `PACK` fits. -/
theorem within_of_packBytes {s : State} {p : List Byte} (hr : s.ready .pack) (hp : packBytes s.items = some p) :
    within s.params.capBytes p.length = true := by
  obtain ⟨-, -, hcap⟩ := hr
  simp only [State.capacityOk, packLength_eq, hp, Option.map_some, Bool.and_eq_true] at hcap
  exact hcap.2

/-- Settles O8: a start checks the operands and the length of the result, and no result is longer than what was checked. -/
theorem capacitiesBoundOperandsAndResults : Obligations.CapacitiesBoundOperandsAndResults := by
  refine ⟨fun s op hi hheld hcap => exec_op_refused (startOp_exceeded hi hheld hcap), fun s t op h hout => ?_, fun s t h hvals => ?_⟩
  · obtain ⟨hr, -⟩ := exec_op_ends h
    have hcap := hr.2.2
    cases op with
    | enc =>
      simp only [State.capacityOk, Bool.and_eq_true] at hcap
      rw [(exec_enc_eq_next_out h).2, length_cobsEncode]
      exact hcap.2
    | dec =>
      rw [(exec_dec_eq_next_out h).2]
      exact within_of_le hcap ((length_cobsDecode_le _ _).trans (Nat.sub_le _ _))
    | pack =>
      obtain ⟨-, ⟨p, hp, -, rfl⟩ | ⟨-, -, -, -, -, hheld, -⟩⟩ := exec_pack_cases h
      · exact within_of_packBytes hr hp
      · simp [hout] at hheld
    | unpack =>
      obtain ⟨-, ⟨vs, rest, hu, -, -, rfl⟩ | ⟨-, -, -, -, -, hheld, -⟩⟩ := exec_unpack_cases h
      · simp only [State.capacityOk, Bool.and_eq_true] at hcap
        rw [unpackBytes_remainder hu, List.length_drop]
        exact within_of_le hcap.1 (Nat.sub_le _ _)
      · simp [hout] at hheld
  · obtain ⟨⟨-, -, hcap⟩, ⟨vs, rest, hu, -, rfl, -⟩ | ⟨-, -, -, -, -, -, hheld⟩⟩ := exec_unpack_cases h
    · simp only [State.capacityOk, Bool.and_eq_true] at hcap
      rw [(packBytes_of_unpackBytes hu).1]
      exact hcap.2
    · simp [hvals] at hheld

/-- Settles O34: the packed words fit, as they did for `PACK`, and are unpacked under their own tags. -/
theorem unpackInvertsPack : Obligations.UnpackInvertsPack := by
  intro s vs tags hr hv ht
  obtain ⟨p, hp, hu⟩ := unpackBytes_of_numeric hv ht
  obtain ⟨t, hexec, ⟨hidle, -, -, hvalid, hheld, -⟩, rfl⟩ := exec_pack_of_packBytes hr hp
  have hparams : t.params = s.params := (exec_op_keeps (op := .pack) hexec).surroundings.1
  have hlen : tags.length = s.items.length := by simpa using (congrArg List.length ht).symm
  have hready : State.ready { t with inp := t.out, inpHeld := true, pat := tags, patHeld := true } .unpack := by
    refine ⟨hidle, rfl, ?_⟩
    have hcap := hr.2.2
    simp only [State.capacityOk, Bool.and_eq_true] at hcap ⊢
    rw [hparams, hlen]
    exact ⟨within_of_packBytes hr hp, hcap.1.1⟩
  obtain ⟨w, hw, hok, hvals, hout⟩ := exec_unpack_of_unpackBytes hready (by simpa using hu [])
  exact ⟨t, _, _, w, hexec, outToIn_eq_next.2 ⟨hvalid, hheld, hidle, rfl⟩, writePat_eq_next.2 ⟨hidle, rfl⟩, hw, hok, hvals,
    hout⟩

end Sys2Proof.Machine
end

section
/-! The transport, with a close that may fall (spec/44_environment_protocol.md section 1, rule R189, spec/93_implementation_defined.md U18,
U20). -/

namespace Sys2Proof.Machine

/-- A close is requested exactly when it is the next action. -/
theorem closeRequested_eq_true {s : State} : s.closeRequested = true ↔ ∃ rest, s.cmds = .act .close :: rest := by
  unfold State.closeRequested
  split <;> simp_all

/-- The pending actions and the Open mark behind a point at which a close may fall: as they were, or the close has fallen. -/
def CloseMayFall (s : State) (left : List EnvAction) (isOpen : Bool) : Prop :=
  left = s.cmds ∧ isOpen = s.chanOpen ∨ s.cmds = .act .close :: left ∧ isOpen = false

/-- Everything a gap can do. -/
theorem gap_cases (s : State) :
    ∃ n left isOpen, s.gap = { s with fresh := n, cmds := left, chanOpen := isOpen } ∧ CloseMayFall s left isOpen := by
  cases hr : s.closeRequested with
  | false => exact ⟨s.fresh, s.cmds, s.chanOpen, gap_of_no_close hr, .inl ⟨rfl, rfl⟩⟩
  | true =>
    obtain ⟨rest, hc⟩ := closeRequested_eq_true.1 hr
    rcases gap_of_close hc with h | h
    · exact ⟨_, rest, false, h, .inr ⟨hc, rfl⟩⟩
    · exact ⟨_, s.cmds, s.chanOpen, h, .inl ⟨rfl, rfl⟩⟩

/-- Everything a read of the transport can do, a close before it included: a front part of the arrived bytes is taken; it fails on a closed
channel only, and blocks only with no frame there, taking nothing. -/
theorem gap_readBytes_cases (s : State) :
    ∃ r n left isOpen rx,
      s.gap.readBytes = (r, { s with fresh := n, cmds := left, chanOpen := isOpen, rx := rx }) ∧
        CloseMayFall s left isOpen ∧ rx <:+ s.rx ∧ (r = .failed → isOpen = false) ∧
        (r = .waits → takeFrame s.rx = none ∧ rx = s.rx) := by
  obtain ⟨n, left, isOpen, hgap, hclose⟩ := gap_cases s
  have hsuffix := readBytes_suffix s.gap
  rw [hgap] at hsuffix ⊢
  rcases readBytes_cases { s with fresh := n, cmds := left, chanOpen := isOpen } with
    ⟨f, rest, -, h⟩ | ⟨-, bs, k, h⟩ | ⟨ho, k, h⟩ | ⟨hn, h⟩ <;> rw [h] at hsuffix ⊢
  · exact ⟨_, _, left, isOpen, rest, rfl, hclose, hsuffix, by simp, by simp⟩
  · exact ⟨_, _, left, isOpen, _, rfl, hclose, hsuffix, by simp, by simp⟩
  · exact ⟨_, _, left, isOpen, _, rfl, hclose, hsuffix, fun _ => ho, by simp⟩
  · exact ⟨_, _, left, isOpen, s.rx, rfl, hclose, hsuffix, by simp, fun _ => ⟨hn, rfl⟩⟩

/-- Settles O53: what a write and a read can do, clause by clause. -/
theorem transportCallsReadAndWrite : Obligations.TransportCallsReadAndWrite := by
  refine ⟨fun s bs ho => ?writeOpen, fun s bs => ?write, fun s f rest ho hr hf => ?readFrame, fun s => ?read⟩
  case writeOpen => exact congrArg Host.Outcome.next (sendBytes_open ho bs id id)
  case write =>
    refine ⟨_, rfl, ?_⟩
    rcases sendBytes_cases s bs id id with ⟨n, h⟩ | ⟨ho, n, k, h⟩ <;> rw [h]
    · simp [SameOperands, SameControl]
    · exact ⟨rfl, rfl, rfl, by simp [SameOperands], by simp [SameControl], rfl, rfl, .inr ⟨ho, rfl, k, rfl⟩⟩
  case readFrame =>
    have hread : s.gap.readBytes = (.bytes f, { s with fresh := s.fresh + 1, rx := rest }) := by
      rw [gap_of_no_close hr, readBytes_frame ho hf]
    exact ⟨_, rfl, by simp [readToCaller, hread]⟩
  case read =>
    obtain ⟨r, n, left, isOpen, rx, hread, hclose, hrx, hfailed, hwaits⟩ := gap_readBytes_cases s
    refine ⟨_, left, rfl, ?_⟩
    cases r with
    | bytes f =>
      simp only [readToCaller, hread]
      exact ⟨hrx, rfl, rfl, by simp [SameOperands], by simp [SameControl], rfl, rfl, hclose, .inl ⟨rfl, rfl, f, rfl⟩⟩
    | failed =>
      simp only [readToCaller, hread]
      exact ⟨hrx, rfl, rfl, by simp [SameOperands], by simp [SameControl], rfl, rfl, hclose,
        .inr (.inl ⟨hfailed rfl, rfl, rfl, rfl⟩)⟩
    | waits =>
      obtain ⟨hn, rfl⟩ := hwaits rfl
      simp only [readToCaller, hread]
      exact ⟨hrx, rfl, rfl, by simp [SameOperands], by simp [SameControl], rfl, rfl, hclose, .inr (.inr ⟨hn, rfl, rfl, rfl, rfl⟩)⟩

end Sys2Proof.Machine
end

section
/-! Sending a frame, and the commands that do (spec/44_environment_protocol.md sections 3 and 4). -/

namespace Sys2Proof.Machine

/-- A result to the caller is put behind those before it. -/
theorem calls_deliver {s v : State} (h : v.calls = s.calls) (r : CallResult) : (v.deliver r).calls = s.calls ++ [r] := by
  rw [State.deliver_calls, h]

/-- What `PACK` and then `ENC` leave unchanged: the environment, the pattern and the registers of the other two operations. -/
structure SendKeeps (s v : State) : Prop where
  surroundings : SameSurroundings s v
  pat : v.pat = s.pat
  patHeld : v.patHeld = s.patHeld
  decRegs : SameDecRegs s v
  unpackRegs : SameUnpackRegs s v

/-- `PACK` of these items, and `ENC` of what is put into `IN` then, keep what sending keeps. -/
theorem sendKeeps_of_pack_enc {s u v : State} {items : List Item} {inp : List Byte}
    (hu : exec .pack { s with items := items, itemsHeld := true } = .next u)
    (hv : exec .enc { u with inp := inp, inpHeld := true } = .next v) : SendKeeps s v := by
  obtain ⟨⟨-, -, -, -, hpat, hpatHeld⟩, hsur, -, hdec, -, hunpack⟩ := exec_op_keeps (op := .pack) hu
  obtain ⟨⟨-, -, -, -, kpat, kpatHeld⟩, ksur, -, kdec, -, kunpack⟩ := exec_op_keeps (op := .enc) hv
  have hdec := hdec (by decide)
  have hunpack := hunpack (by decide)
  have kdec := kdec (by decide)
  have kunpack := kunpack (by decide)
  refine ⟨?_, kpat.trans hpat, kpatHeld.trans hpatHeld, ?_, ?_⟩
  · simp_all [SameSurroundings]
  · simp_all [SameDecRegs]
  · simp_all [SameUnpackRegs]

/-- Where the payload fits, every item of it does. -/
theorem items_fit {cap : Option Nat} {items : List Item} {p : List Byte} (hp : packBytes items = some p)
    (hc : within cap p.length = true) : items.all (Item.fits cap) = true := by
  induction items generalizing p with
  | nil => rfl
  | cons it items ih =>
    obtain ⟨bs, q, hbs, hq, rfl⟩ := packBytes_cons_eq_some.1 hp
    rw [List.length_append] at hc
    have hit : Item.fits cap it = true := by
      cases it with
      | rawBytes s =>
        cases hbs
        exact within_of_le hc (Nat.le_add_right _ _)
      | int32 | float32 | unsupported => rfl
    simp [hit, ih hq (within_of_le hc (Nat.le_add_left _ _))]

/-- `SENDFRAME` of an idle block whose command fits: the frame of the opcode and the packed items goes to the transport (R92, R191). -/
theorem sendFrame_of_fits {s : State} {opcode : Byte} {items : List Item} {p : List Byte} (hi : s.phase = .idle)
    (hp : packBytes items = some p) (hf : s.sendFits opcode items p) (sent failed : State → State) :
    ∃ v, sendFrame opcode items sent failed s = .next (v.sendBytes (cobsEncode (opcode :: p)) sent failed) ∧
      v.phase = .idle ∧ SendKeeps s v := by
  obtain ⟨hitems, hbytes, hframe⟩ := hf
  have hready : State.ready { s with items := items, itemsHeld := true } .pack := by
    refine ⟨hi, rfl, ?_⟩
    simp [State.capacityOk, hitems, items_fit hp hbytes, packLength_eq, hp, hbytes]
  obtain ⟨u, hu, ⟨hui, -, hust, huv, huh, -⟩, rfl⟩ := exec_pack_of_packBytes hready hp
  have hparams : u.params = s.params := (exec_op_keeps (op := .pack) hu).surroundings.1
  have hready' : State.ready { u with inp := opcode :: u.out, inpHeld := true } .enc := by
    have hlen : (opcode :: u.out).length ≤ encLength (opcode :: u.out) := by
      have := length_add_two_le_encLength (opcode :: u.out)
      omega
    refine ⟨hui, rfl, ?_⟩
    simp only [State.capacityOk, hparams, hframe, within_of_le hframe hlen, Bool.and_self]
  obtain ⟨v, hv, ⟨hvi, -, -, hvv, hvh, -⟩, hvout, -⟩ := exec_enc_of_ready hready'
  refine ⟨v, sendFrame_eq_next.2 ⟨hi, u, hu, .inl ⟨hust, v, huv, huh, hui, hv, hvv, hvh, ?_⟩⟩, hvi, sendKeeps_of_pack_enc hu hv⟩
  rw [hvout]

/-- A command that fits, on a ready channel, sends its frame with the lock held, and goes on as its reply asks (R191). -/
theorem transact_sends {s : State} {opcode : Byte} {items : List Item} {p : List Byte} (hr : s.channelReady)
    (hp : packBytes items = some p) (hf : s.sendFits opcode items p) (payload : List Byte) (reply : Option (List Tag)) :
    ∃ v, transact payload opcode items reply s =
        .next (State.commandSent reply { v with tx := s.tx ++ cobsEncode (opcode :: p) }) ∧
      v.phase = .idle ∧ SendKeeps { s with chanLocked := true } v := by
  obtain ⟨v, hv, hvi, hkeeps⟩ := sendFrame_of_fits (s := { s with chanLocked := true }) hr.1 hp hf (State.commandSent reply)
    fun s2 => s2.release true
  obtain ⟨-, -, -, -, hopen, -, htx, -⟩ := hkeeps.surroundings
  refine ⟨v, ?_, hvi, hkeeps⟩
  rw [transact_ready hr, hv, sendBytes_open (hopen.trans hr.2.1), htx]

/-- A command without reply is done when its frame is sent, and the channel is unlocked again (R188). -/
theorem transact_without_reply {s : State} {opcode : Byte} {items : List Item} {p : List Byte} (hr : s.channelReady)
    (hp : packBytes items = some p) (hf : s.sendFits opcode items p) (payload : List Byte) :
    ∃ t, transact payload opcode items none s = .next t ∧ t.tx = s.tx ++ cobsEncode (opcode :: p) ∧ t.rx = s.rx ∧
      t.calls = s.calls ++ [.done] ∧ t.cmds = s.cmds ∧ t.chanOpen = true ∧ t.chanLocked = false ∧ t.params = s.params ∧
      t.readings = s.readings ∧ t.pat = s.pat ∧ t.patHeld = s.patHeld ∧ SameDecRegs s t ∧ SameUnpackRegs s t := by
  obtain ⟨v, hv, -, ⟨hparams, hcmds, hreadings, hcalls, hopen, -, -, hrx⟩, hpat, hpatHeld, hdec, hunpack⟩ :=
    transact_sends hr hp hf payload none
  exact ⟨_, hv, rfl, hrx, calls_deliver hcalls .done, hcmds, hopen.trans hr.2.1, rfl, hparams, hreadings, hpat, hpatHeld, hdec,
    hunpack⟩

/-- A command with a reply waits for it when its frame is sent, with the channel locked (R188). -/
theorem transact_with_reply {s : State} {opcode : Byte} {items : List Item} {p : List Byte} (hr : s.channelReady)
    (hp : packBytes items = some p) (hf : s.sendFits opcode items p) (payload : List Byte) (tags : List Tag) :
    ∃ t, transact payload opcode items (some tags) s = .next t ∧ t.phase = .idle ∧ t.tx = s.tx ++ cobsEncode (opcode :: p) ∧
      t.cmds = .act (.reply tags) :: s.cmds ∧ t.chanLocked = true ∧ t.chanOpen = true ∧ t.rx = s.rx ∧ t.calls = s.calls ∧
      t.params = s.params ∧ t.readings = s.readings ∧ t.pat = s.pat ∧ t.patHeld = s.patHeld ∧ SameDecRegs s t ∧
      SameUnpackRegs s t := by
  obtain ⟨v, hv, hvi, ⟨hparams, hcmds, hreadings, hcalls, hopen, hlocked, -, hrx⟩, hpat, hpatHeld, hdec, hunpack⟩ :=
    transact_sends hr hp hf payload (some tags)
  exact ⟨_, hv, hvi, rfl, congrArg (EnvAction.act (.reply tags) :: ·) hcmds, hlocked, hopen.trans hr.2.1, hrx, hcalls, hparams,
    hreadings, hpat, hpatHeld, hdec, hunpack⟩

/-- Settles O44: `SetMotor` in its domain is a transaction without reply. -/
theorem setMotorSendsItsFrame : Obligations.SetMotorSendsItsFrame := by
  intro s w hr hlo hhi hf
  obtain ⟨t, ht, htx, hrest⟩ := transact_without_reply hr (packBytes_singleton rfl) hf (1 :: le32 w)
  exact ⟨t, (exec_setMotor_inside ⟨hlo, hhi⟩ s).trans ht, htx, rfl, hrest⟩

/-- Settles O46: `SetPid` is a transaction without reply, of eight Float32 items. -/
theorem setPidSendsItsFrame : Obligations.SetPidSendsItsFrame := by
  intro s kp ki kd zo mino maxo ir im hr hf
  obtain ⟨t, ht, htx, hrest⟩ := transact_without_reply hr (packBytes_map_float32 [kp, ki, kd, zo, mino, maxo, ir, im]) hf
    (3 :: [kp, ki, kd, zo, mino, maxo, ir, im].flatMap le32)
  exact ⟨t, ht, by simpa using htx, rfl, hrest⟩

/-- Settles O47: both commands are transactions that wait for one Int32. -/
theorem commandsWithReplySendAndWait : Obligations.CommandsWithReplySendAndWait := by
  refine fun s hr => ⟨fun hf => ?_, fun w hf => ?_⟩
  · obtain ⟨t, ht, -, hrest⟩ := transact_with_reply hr (items := []) rfl hf [2] [.int]
    exact ⟨t, ht, hrest⟩
  · obtain ⟨t, ht, -, hrest⟩ := transact_with_reply hr (packBytes_singleton rfl) hf (4 :: le32 w) [.int]
    exact ⟨t, ht, hrest⟩

end Sys2Proof.Machine
end

section
/-! A reply, and the whole transaction (spec/44_environment_protocol.md sections 1, 3 and 4). -/

namespace Sys2Proof.Machine

/-- What the caller of a read with a pattern gets, told by the decoded payload (R163, R185, R199). -/
def replyOf (tags : List Tag) (payload : List Byte) : CallResult :=
  match unpackBytes tags payload with
  | some (vs, rest) => .values vs rest
  | none => .truncatedPayload

/-- Whether the payload is too short for the pattern (R164). -/
def replyFails (tags : List Tag) (payload : List Byte) : Bool :=
  (unpackBytes tags payload).isNone

/-- The result to the caller is that of the payload, after any `UNPACK` that answers. -/
theorem exec_unpack_reply {s t : State} (h : exec .unpack s = .next t) :
    t.replyResult = replyOf s.pat s.inp ∧ (t.status != .ok) = replyFails s.pat s.inp := by
  obtain ⟨-, ⟨vs, rest, hu, ⟨-, -, hst, -⟩, hvals, hout⟩ | ⟨hu, -, -, hst, -⟩⟩ := exec_unpack_cases h
  · simp [State.replyResult, replyOf, replyFails, hu, hst, hvals, hout]
  · simp [State.replyResult, replyOf, replyFails, hu, hst]

/-- A read with a pattern that got its bytes decodes and unpacks them and gives the result to the caller (R92, R183). -/
theorem receiveValues_of_bytes {s s1 : State} {f : List Byte} {tags : List Tag} (hi : s.phase = .idle)
    (hread : s.gap.readBytes = (.bytes f, s1)) (hf : within s1.params.capBytes f.length = true)
    (ht : within s1.params.capItems tags.length = true) (again : EnvOp) (ended : Bool → State → State) :
    ∃ v, receiveValues again tags ended s =
        .next (ended (replyFails tags (cobsDecode s1.params.boundary f))
          (v.deliver (replyOf tags (cobsDecode s1.params.boundary f)))) ∧
      SameSurroundings s1 v := by
  have hready : State.ready { s1 with inp := f, inpHeld := true } .dec :=
    ⟨(gap_readBytes_phase hread).trans hi, rfl, hf⟩
  obtain ⟨u, hu, ⟨hui, -, -, huv, huh, -⟩, huout⟩ := exec_dec_of_ready hready
  have husur : SameSurroundings s1 u := (exec_op_keeps (op := .dec) hu).surroundings
  have hready' : State.ready { u with inp := u.out, inpHeld := true, pat := tags, patHeld := true } .unpack := by
    have hlen : u.out.length ≤ f.length := by
      rw [huout]
      exact (length_cobsDecode_le _ _).trans (Nat.sub_le _ _)
    refine ⟨hui, rfl, ?_⟩
    simp only [State.capacityOk, husur.1, within_of_le hf hlen, ht, Bool.and_self]
  obtain ⟨v, hv, -⟩ := unpackReadsThePattern _ hready'
  have hvsur : SameSurroundings u v := (exec_op_keeps (op := .unpack) hv).surroundings
  obtain ⟨hresult, hfails⟩ := exec_unpack_reply hv
  rw [huout] at hresult hfails
  refine ⟨v, readFrame_eq_next.2 ⟨hi, .inr (.inr ⟨f, s1, hread, ?_⟩)⟩, by simp_all [SameSurroundings]⟩
  simp only [andThen_eq_next, outToIn_eq_next, writePat_eq_next]
  exact ⟨u, hu, _, ⟨huv, huh, hui, rfl⟩, _, ⟨hui, rfl⟩, v, hv, by rw [hresult, hfails]⟩

/-- A read with a pattern that failed is reported to the caller (U18). -/
theorem receiveValues_of_failed {s s1 : State} (hi : s.phase = .idle) (hread : s.gap.readBytes = (.failed, s1)) (again : EnvOp)
    (tags : List Tag) (ended : Bool → State → State) :
    receiveValues again tags ended s = .next (ended true (s1.deliver .transportFailed)) :=
  readFrame_eq_next.2 ⟨hi, .inr (.inl ⟨s1, hread, rfl⟩)⟩

/-- A read with a pattern that blocks stays pending (R181). -/
theorem receiveValues_of_waits {s s1 : State} (hi : s.phase = .idle) (hread : s.gap.readBytes = (.waits, s1)) (again : EnvOp)
    (tags : List Tag) (ended : Bool → State → State) : receiveValues again tags ended s = .next (s1.push (.act again)) :=
  readFrame_eq_next.2 ⟨hi, .inl ⟨s1, hread, rfl⟩⟩

/-- A payload that unpacks is given to the caller as values and remainder. -/
theorem replyOf_some {tags : List Tag} {payload rest : List Byte} {vs : List Value}
    (h : unpackBytes tags payload = some (vs, rest)) :
    replyOf tags payload = .values vs rest ∧ replyFails tags payload = false := by
  simp [replyOf, replyFails, h]

/-- A payload that does not unpack is reported. -/
theorem replyOf_none {tags : List Tag} {payload : List Byte} (h : unpackBytes tags payload = none) :
    replyOf tags payload = .truncatedPayload := by
  simp [replyOf, h]

/-- What the payload tells the caller is no failed call. -/
theorem replyOf_ne_transportFailed (tags : List Tag) (payload : List Byte) : replyOf tags payload ≠ .transportFailed := by
  unfold replyOf
  split <;> simp

/-- A reply whose frame has arrived on an open channel is given to the caller, whatever is done at the end. -/
theorem receiveValues_of_frame {s : State} {tags : List Tag} {f rest : List Byte} (hi : s.phase = .idle) (ho : s.chanOpen = true)
    (hr : s.closeRequested = false) (hf : takeFrame s.rx = some (f, rest)) (hb : within s.params.capBytes f.length = true)
    (ht : within s.params.capItems tags.length = true) (again : EnvOp) (ended : Bool → State → State) :
    ∃ v, receiveValues again tags ended s =
        .next (ended (replyFails tags (cobsDecode s.params.boundary f))
          (v.deliver (replyOf tags (cobsDecode s.params.boundary f)))) ∧
      SameSurroundings { s with rx := rest } v := by
  have hread : s.gap.readBytes = (.bytes f, { s with fresh := s.fresh + 1, rx := rest }) := by
    rw [gap_of_no_close hr, readBytes_frame ho hf]
  exact receiveValues_of_bytes hi hread hb ht again ended

/-- The rest of a command with a reply, in any state of the channel: it blocks, or gives the caller one result. -/
theorem commandReply_anyChannel {s : State} {tags : List Tag} (hi : s.phase = .idle) (hb : s.params.capBytes = none)
    (ht : s.params.capItems = none) :
    ∃ t left, commandReply tags s = .next t ∧ t.tx = s.tx ∧ t.rx <:+ s.rx ∧
      (left = s.cmds ∨ s.cmds = .act .close :: left) ∧
      (takeFrame s.rx = none ∧ t.cmds = .act (.reply tags) :: left ∧ t.calls = s.calls ∧ t.chanLocked = s.chanLocked ∨
        t.cmds = left ∧ ∃ r, t.calls = s.calls ++ [r] ∧ (r = .transportFailed → t.chanOpen = false)) := by
  obtain ⟨r, n, left, isOpen, rx, hread, hclose, hrx, hfailed, hwaits⟩ := gap_readBytes_cases s
  have hleft : left = s.cmds ∨ s.cmds = .act .close :: left := hclose.imp And.left And.left
  cases r with
  | bytes f =>
    obtain ⟨v, hv, -, hcmds, -, hcalls, -, -, htx, hvrx⟩ := receiveValues_of_bytes (tags := tags) hi hread (by simp [hb, within])
      (by simp [ht, within]) (.reply tags) fun error s1 => s1.release error
    refine ⟨_, left, hv, htx, by simpa [hvrx] using hrx, hleft, .inr ⟨hcmds, _, calls_deliver hcalls _,
      fun h => absurd h (replyOf_ne_transportFailed _ _)⟩⟩
  | failed =>
    exact ⟨_, left, receiveValues_of_failed hi hread _ _ _, rfl, hrx, hleft,
      .inr ⟨rfl, .transportFailed, rfl, fun _ => hfailed rfl⟩⟩
  | waits =>
    obtain ⟨hn, rfl⟩ := hwaits rfl
    exact ⟨_, left, receiveValues_of_waits hi hread _ _ _, rfl, hrx, hleft, .inl ⟨hn, rfl, rfl, rfl⟩⟩

/-- Settles O48: the read of a frame that has arrived, under a command and as `RECVVALS` alone, and the read in any state of the
channel. -/
theorem replyIsDecodedAndUnpacked : Obligations.ReplyIsDecodedAndUnpacked := by
  refine ⟨fun s tags f rest hi ho hr hf hb ht => ⟨?command, ?recvVals⟩, fun s tags hi hb ht => commandReply_anyChannel hi hb ht⟩
  case command =>
    obtain ⟨v, hv, hparams, hcmds, -, hcalls, -, -, htx, hrx⟩ := receiveValues_of_frame hi ho hr hf hb ht (.reply tags)
      fun error s1 => s1.release error
    refine ⟨_, hv, hrx, htx, hcmds, hparams, fun vs rem hu => ?_, fun hu => ?_⟩
    · obtain ⟨hreply, hfails⟩ := replyOf_some hu
      rw [hreply, hfails]
      exact ⟨calls_deliver hcalls _, rfl⟩
    · rw [replyOf_none hu]
      exact calls_deliver hcalls _
  case recvVals =>
    obtain ⟨v, hv, hparams, hcmds, -, hcalls, -, hlocked, htx, hrx⟩ := receiveValues_of_frame hi ho hr hf hb ht (.recvVals tags)
      fun _ s1 => s1
    refine ⟨_, hv, hrx, htx, hcmds, hparams, hlocked, fun vs rem hu => ?_, fun hu => ?_⟩
    · rw [(replyOf_some hu).1]
      exact calls_deliver hcalls _
    · rw [replyOf_none hu]
      exact calls_deliver hcalls _

/-- The frame of a word and further bytes, decoded and unpacked under one `Int` (R110, R151). -/
theorem unpackBytes_echo (boundary : FinalBoundary) (v : Word) (extra : List Byte) :
    unpackBytes [.int] (cobsDecode boundary (cobsEncode (le32 v ++ extra))) = some ([.int32 v], extra) := by
  rw [cobsDecode_cobsEncode]
  exact unpackBytes_cons_le32 v rfl

/-- Settles O49: the command sends and waits, and the frame that has arrived is its reply. -/
theorem setPositionTransactionEchoes : Obligations.SetPositionTransactionEchoes := by
  intro s w v extra rx' rest hr hb ht hc hrx
  have hfits : State.sendFits { s with cmds := rest } 4 [.int32 w] (le32 w) := by simp [State.sendFits, hb, ht, within]
  obtain ⟨u, hu, hui, hutx, hucmds, -, huopen, hurx, hucalls, huparams, -⟩ :=
    transact_with_reply hr (packBytes_singleton rfl) hfits (4 :: le32 w) [.int]
  have hfirst : step s = .next u :=
    (step_command hc hr.1 (Laws.RoundTrip.envSetPosition w rfl)).trans hu
  have hframe : takeFrame u.rx = some (cobsEncode (le32 v ++ extra), rx') := by
    rw [hurx]
    exact (congrArg takeFrame hrx).trans (takeFrame_cobsEncode _ _)
  have hparams : u.params = s.params := huparams
  obtain ⟨⟨t, hreply, htrx, httx, htcmds, -, hvalues, -⟩, -⟩ := replyIsDecodedAndUnpacked.1 { u with cmds := rest } [.int]
    _ rx' hui huopen hr.2.2.2 hframe (by simp [hparams, hb, within]) (by simp [hparams, ht, within])
  obtain ⟨hcalls, hlocked⟩ := hvalues _ _ (unpackBytes_echo _ v extra)
  have hsecond : step u = .next t := (step_act hucmds (.inl hui)).trans hreply
  refine ⟨t, by simp only [State.run, hfirst, hsecond, andThen_next], httx.trans hutx, htrx, ?_, hlocked, htcmds⟩
  rw [hcalls]
  exact calls_deliver hucalls _

end Sys2Proof.Machine
end

section
/-! The lock, and a channel that is closed or that is to be closed (spec/44_environment_protocol.md section 3). -/

namespace Sys2Proof.Machine

/-- Settles O50: a transaction that finds the channel locked puts its command back. -/
theorem lockedCommandWaits : Obligations.LockedCommandWaits := by
  intro s bs rest i hc hi hl hd hdomain
  obtain ⟨opcode, items, p, -, -, hexec⟩ := exec_command (encodes_of_decode hd).2 hdomain
  have hpush : State.push { s with cmds := rest } (.command bs) = s := by
    change { s with cmds := .command bs :: rest } = s
    rw [← hc]
  rw [step_command hc hi hd, hexec, transact_locked (s := { s with cmds := rest }) hi hl, hpush]

/-- A state that steps to itself stays, whatever number of steps. -/
theorem run_of_step_eq {s : State} (h : step s = .next s) (k : Nat) : State.run k s = .next s := by
  induction k with
  | zero => rfl
  | succ k ih => rw [State.run, h, andThen_next, ih]

/-- Settles O51: a transaction on a closed channel returns with the lock, and behind it every command waits. -/
theorem closedChannelIsANoOpThatKeepsTheLock : Obligations.ClosedChannelIsANoOpThatKeepsTheLock := by
  intro s i hi ho hl hr hcommand
  refine ⟨?_, fun j bs rest k hd hdomain => run_of_step_eq (lockedCommandWaits
    { s with chanLocked := true, calls := s.calls ++ [.closedNoOp], cmds := .command bs :: rest } bs rest j rfl hi rfl hd hdomain) k⟩
  obtain ⟨payload, henc, hdomain⟩ : ∃ payload, encode i = (.env, payload) ∧ InDomain i := by
    rcases hcommand with rfl | ⟨w, rfl⟩ | ⟨w, rfl, hw⟩ | ⟨kp, ki, kd, zo, mino, maxo, ir, im, rfl⟩
    · exact ⟨_, rfl, by simp [InDomain]⟩
    · exact ⟨_, rfl, by simp [InDomain]⟩
    · refine ⟨_, rfl, fun w' hw' => ?_⟩
      cases hw'
      exact hw
    · exact ⟨_, rfl, by simp [InDomain]⟩
  obtain ⟨opcode, items, p, -, -, hexec⟩ := exec_command henc hdomain
  rw [hexec, transact_closed hi hl ho hr]
  rfl

/-- A command with a reply waits for one Int32. -/
theorem replyPattern_eq_some {i : Instr} (h : i = .envRequestEncoder ∨ ∃ w, i = .envSetPosition w) :
    replyPattern i = some [.int] := by
  rcases h with rfl | ⟨w, rfl⟩ <;> rfl

/-- Every other command has no reply. -/
theorem replyPattern_eq_none {i : Instr} (h : ¬(i = .envRequestEncoder ∨ ∃ w, i = .envSetPosition w)) :
    replyPattern i = none := by
  cases i <;> simp_all [replyPattern]

/-- A command that finds the channel unlocked takes the lock, and a close may fall before the check or before the write: it is the closed
no-op, or it sends (R187 to R189). -/
theorem transact_unlocked_cases {s : State} (hi : s.phase = .idle) (hl : s.chanLocked = false) (payload : List Byte) (opcode : Byte)
    (items : List Item) (reply : Option (List Tag)) :
    (∃ n left, CloseMayFall s left false ∧
        transact payload opcode items reply s =
          .next (State.deliver { s with fresh := n, cmds := left, chanOpen := false, chanLocked := true } .closedNoOp)) ∨
      ∃ n left isOpen, CloseMayFall s left isOpen ∧
        transact payload opcode items reply s =
          sendFrame opcode items (State.commandSent reply) (fun s2 => s2.release true)
            { s with fresh := n, cmds := left, chanOpen := isOpen, chanLocked := true } := by
  obtain ⟨n, left, isOpen, hgap, hclose⟩ := gap_cases { s with chanLocked := true }
  unfold transact
  rw [if_neg (by rw [hi]; decide), if_neg (by rw [hl]; decide)]
  simp only [hgap]
  cases isOpen with
  | false => exact .inl ⟨n, left, hclose, if_pos rfl⟩
  | true =>
    obtain ⟨rfl, ho⟩ : left = s.cmds ∧ true = s.chanOpen := hclose.resolve_right fun h => Bool.noConfusion h.2
    obtain ⟨m, left, isOpen, hgap, hclose⟩ := gap_cases { s with fresh := n, chanOpen := true, chanLocked := true }
    refine .inr ⟨m, left, isOpen, ?_, (if_neg (by simp)).trans (by rw [hgap])⟩
    exact hclose.imp_left fun h => ⟨h.1, h.2.trans ho⟩

/-- What a sent command leaves: it is done, or it waits for its reply with the channel locked (R188). -/
theorem commandSent_outcome {i : Instr} {s v : State} (hcalls : v.calls = s.calls) (hlocked : v.chanLocked = true)
    [Decidable (i = .envRequestEncoder ∨ ∃ w, i = .envSetPosition w)] :
    if i = .envRequestEncoder ∨ ∃ w, i = .envSetPosition w then
      (v.commandSent (replyPattern i)).cmds = .act (.reply [.int]) :: v.cmds ∧
        (v.commandSent (replyPattern i)).calls = s.calls ∧ (v.commandSent (replyPattern i)).chanLocked = true
    else
      (v.commandSent (replyPattern i)).cmds = v.cmds ∧
        (v.commandSent (replyPattern i)).calls = s.calls ++ [.done] ∧ (v.commandSent (replyPattern i)).chanLocked = false := by
  split_ifs with h
  · rw [replyPattern_eq_some h]
    exact ⟨rfl, hcalls, hlocked⟩
  · rw [replyPattern_eq_none h]
    exact ⟨rfl, calls_deliver hcalls _, rfl⟩

/-- What a sent command leaves unchanged, whether it waits for a reply or not. -/
theorem commandSent_keeps (reply : Option (List Tag)) (v : State) :
    (v.commandSent reply).rx = v.rx ∧ (v.commandSent reply).readings = v.readings ∧ (v.commandSent reply).params = v.params ∧
      (v.commandSent reply).tx = v.tx ∧ (v.commandSent reply).chanOpen = v.chanOpen := by
  cases reply <;> exact ⟨rfl, rfl, rfl, rfl, rfl⟩

/-- Settles O52: the close falls before the check, or before the write, or it stays requested; and the write fails on a closed channel
only. -/
theorem requestedCloseMayFallInACommand : Obligations.RequestedCloseMayFallInACommand := by
  intro s i payload rest hi ho hl hc henc hdomain hb ht
  obtain ⟨opcode, items, p, rfl, hp, hexec⟩ := exec_command henc hdomain
  have fallen : ∀ {left}, CloseMayFall s left false → left = rest := by
    rintro left (⟨-, hopen⟩ | ⟨hleft, -⟩)
    · simp [ho] at hopen
    · simpa [hc] using hleft.symm
  rw [hexec]
  rcases transact_unlocked_cases hi hl (opcode :: p) opcode items (replyPattern i) with
    ⟨n, left, hclose, h⟩ | ⟨n, left, isOpen, hclose, h⟩ <;> rw [h]
  · exact ⟨_, rfl, rfl, rfl, rfl, .inl ⟨rfl, rfl, rfl, rfl, fallen hclose⟩⟩
  · obtain ⟨v, hv, -, ⟨hparams, hcmds, hreadings, hcalls, hopen, hlocked, htx, hrx⟩, -⟩ :=
      sendFrame_of_fits (s := { s with fresh := n, cmds := left, chanOpen := isOpen, chanLocked := true }) hi hp
        (by simp [State.sendFits, hb, ht, within]) (State.commandSent (replyPattern i)) fun s2 => s2.release true
    rw [hv]
    rcases sendBytes_cases v (cobsEncode (opcode :: p)) (State.commandSent (replyPattern i)) fun s2 => s2.release true with
      ⟨m, h⟩ | ⟨hclosed, m, k, h⟩ <;> rw [h]
    · obtain ⟨krx, kreadings, kparams, ktx, kopen⟩ :=
        commandSent_keeps (replyPattern i) { v with fresh := m, tx := v.tx ++ cobsEncode (opcode :: p) }
      have hsent := commandSent_outcome (i := i) (s := s) (v := { v with fresh := m, tx := v.tx ++ cobsEncode (opcode :: p) })
        hcalls hlocked
      refine ⟨_, rfl, krx.trans hrx, kreadings.trans hreadings, kparams.trans hparams, .inr (.inr ⟨by rw [ktx, htx], left, ?_, ?_⟩)⟩
      · rw [kopen]
        rcases hclose with ⟨hleft, hstay⟩ | ⟨hleft, hfall⟩
        · exact .inl ⟨hleft, hopen.trans (hstay.trans ho)⟩
        · exact .inr ⟨fallen (.inr ⟨hleft, rfl⟩), hopen.trans hfall⟩
      · rw [← show v.cmds = left from hcmds]
        exact hsent
    · obtain rfl : isOpen = false := hopen.symm.trans hclosed
      exact ⟨_, rfl, hrx, hreadings, hparams,
        .inr (.inl ⟨calls_deliver hcalls _, ⟨k, by simp [htx]⟩, hopen, hcmds.trans (fallen hclose)⟩)⟩

end Sys2Proof.Machine
end
